-- ==== Sys2Proof/Word.lean ====
section
/-! DEFINITION. The word types of the machine: bytes, 16-bit addresses, the 4-bit working-register
field and the 3-bit pair field of an instruction (00_scope R5, R7). -/

namespace Sys2Proof

/-- A byte: every register and every data access is 8 bits wide (00_scope R4, DATA_BITS). -/
abbrev Byte := BitVec 8

/-- A 16-bit value: the program counter, a register pair, a program- or data-memory address
before its range check (10_state R12, R14; 20_memory R53). -/
abbrev Addr := BitVec 16

/-- The 4-bit number of a working register Rn, n = 0..15 (00_scope R7, kinds r and Ir). -/
abbrev WReg := BitVec 4

/-- The pair field ppp of LDC, LDE and their kin: the pair is RR(2*ppp) (30_encoding R64, R68). -/
abbrev Pair := BitVec 3

end Sys2Proof
end

