-- ==== Sys2Proof/Config.lean ====
section
/-! DEFINITION. What an implementation of the core fixes (00_scope R4) and the free values: what the
spec leaves unspecified, as constants without a body, so that no proof can rest on one. -/

namespace Sys2Proof

/-- The class RF_MAP gives a register-file location (10_state R10, R27; 92_eei_decisions D20). -/
inductive RegClass where
  /-- General register: plain storage. -/
  | plain
  /-- CPU control register: storage with a role of its own. -/
  | control
  /-- Platform (I/O) register: a read is the environment's choice, a write an output event. -/
  | platform
  /-- Not implemented: any access is a model fault. -/
  | absent
  deriving DecidableEq, Repr

/-- The implementation parameters of 00_scope R4, fixed for one machine. A value of this type stands in
the state (log 1) and no step changes it. -/
structure Config where
  /-- WR_BASE: the register-file address of R0 (10_state R11). -/
  wrBase : Byte
  /-- SYM_ADDR (10_state R25). -/
  symAddr : Byte
  /-- STOPCON_ADDR, `none` while it is not configured (10_state R26, 46_cpu_control R172). -/
  stopconAddr : Option Byte
  /-- PM_SIZE: implemented program-memory bytes, at most 2^13 (10_state R28). -/
  pmSize : Fin 8193
  /-- DM_SIZE: implemented external-data-memory bytes, 0 for none (10_state R29). -/
  dmSize : Fin 8193
  /-- PM_WRITABLE: whether the LDC store forms can write program memory (20_memory R50). -/
  pmWritable : Bool
  /-- RF_MAP: the class of every register-file location (10_state R27). -/
  rfMap : Vector RegClass 256
  /-- RESET_ADDR (70_reset_and_hazards R210). -/
  resetAddr : Addr
  /-- INT_VECTOR: where the two-byte interrupt vector stands (60_exceptions R185). -/
  intVector : Addr
  /-- IDLE_WAKE_WHEN_MASKED: whether a request releases Idle or Stop while SYM.2 = 0
  (60_exceptions R194). -/
  idleWakeWhenMasked : Bool
  deriving DecidableEq, Repr

/-- FLAGS is location D5H (10_state R16). -/
abbrev flagsAddr : Byte := 0xD5#8

/-- SP is location D9H (10_state R24). -/
abbrev spAddr : Byte := 0xD9#8

/-- The value of STOPCON that lets STOP enter Stop mode (46_cpu_control R172). -/
abbrev stopKey : Byte := 0xA5#8

/-- The parameters of State.reset. WR_BASE, SYM_ADDR, PM_SIZE, PM_WRITABLE, RESET_ADDR and INT_VECTOR are
the defaults of 00_scope R4 (PRESUMED: the spec's general knowledge, log 1); STOPCON_ADDR is not
configured, as R4 says; DM_SIZE, RF_MAP and IDLE_WAKE_WHEN_MASKED are OPEN in R4 (DESIGN CHOICE, log 2).
UNSAFE for a claim about this one value, so the obligations quantify over all of them. -/
def Config.default : Config where
  wrBase := 0xC0#8
  symAddr := 0xDF#8
  stopconAddr := none
  pmSize := 8192
  dmSize := 8192
  pmWritable := false
  rfMap := Vector.replicate 256 .plain
  resetAddr := 0x0100#16
  intVector := 0x0000#16
  idleWakeWhenMasked := false

/-- FREE VALUE: FLAGS bits 3..0 as the read number `slot` of step `tick` finds them (10_state R21: "a read
of x[D5H] returns bits 3..0 as an unspecified value (a draw)"; log 5). -/
opaque Config.flagsLow (tick slot : Nat) : BitVec 4

/-- FREE VALUE: what the read number `slot` of step `tick` finds in the platform register at `a`
(10_state R27: "a read returns a value chosen by the environment (a draw)"; log 6). -/
opaque Config.platformRead (tick slot : Nat) (a : Byte) : Byte

/-- FREE VALUE: what external data memory holds at an address that nothing has written since reset number
`epoch` (10_state R32: unspecified; log 8). -/
opaque Config.unwrittenData (epoch a : Nat) : Byte

/-- FREE VALUE: what program memory holds at an address outside the loaded image (log 7). -/
opaque Config.unlistedProgram (a : Nat) : Byte

/-- FREE VALUE: what register-file location `a` holds right after reset number `epoch`
(70_reset_and_hazards R210: "every other piece of state <- unspecified"; log 4). -/
opaque Config.regAfterReset (epoch a : Nat) : Byte

end Sys2Proof
end

