-- ==== Sys2Proof/Syntax.lean ====
section
/-! DEFINITION. The instructions: one constructor for each row of spec/opcode_table.json, in its order
(00_scope R1; 30_encoding R61, R70). A constructor's name is the mnemonic and then the operand kinds,
destination first: `r` and `ir` for the kinds r and Ir (working register, through a working register),
`reg` and `ireg` for R and IR (8-bit register address, through one), `im` immediate, `x` indexed
register, `irr` for Irr (through a working register pair), `ipair` for IRR (through a register pair),
`xs` and `xl` short and long index, `da` direct address, `ra` relative address, `cc` condition. -/

namespace Sys2Proof

/-- The sixteen condition codes of Table 6-6 (43_program_control R140), in the order of their binary
value. `z` is also EQ, `nz` NE, `c` ULT, `nc` UGE (30_encoding R74). -/
inductive Cond where
  | f | lt | le | ule | ov | mi | z | c | t | ge | gt | ugt | nov | pl | nz | nc
  deriving DecidableEq, Repr

/-- The instructions of the SAM88RCRI, one constructor for each row of the opcode table. Operand fields
are destination first, as the assembler writes them; the byte order is `encode`'s. -/
inductive Instr where
  /-- ADD r,r (R122). -/
  | add_r_r (dst : WReg) (src : WReg)
  /-- ADD r,Ir (R122). -/
  | add_r_ir (dst : WReg) (src : WReg)
  /-- ADD R,R (R122). -/
  | add_reg_reg (dst : Byte) (src : Byte)
  /-- ADD R,IR (R122). -/
  | add_reg_ireg (dst : Byte) (src : Byte)
  /-- ADD R,IM (R122). -/
  | add_reg_im (dst : Byte) (im : Byte)
  /-- ADC r,r (R121). -/
  | adc_r_r (dst : WReg) (src : WReg)
  /-- ADC r,Ir (R121). -/
  | adc_r_ir (dst : WReg) (src : WReg)
  /-- ADC R,R (R121). -/
  | adc_reg_reg (dst : Byte) (src : Byte)
  /-- ADC R,IR (R121). -/
  | adc_reg_ireg (dst : Byte) (src : Byte)
  /-- ADC R,IM (R121). -/
  | adc_reg_im (dst : Byte) (im : Byte)
  /-- SUB r,r (R127). -/
  | sub_r_r (dst : WReg) (src : WReg)
  /-- SUB r,Ir (R127). -/
  | sub_r_ir (dst : WReg) (src : WReg)
  /-- SUB R,R (R127). -/
  | sub_reg_reg (dst : Byte) (src : Byte)
  /-- SUB R,IR (R127). -/
  | sub_reg_ireg (dst : Byte) (src : Byte)
  /-- SUB R,IM (R127). -/
  | sub_reg_im (dst : Byte) (im : Byte)
  /-- SBC r,r (R126). -/
  | sbc_r_r (dst : WReg) (src : WReg)
  /-- SBC r,Ir (R126). -/
  | sbc_r_ir (dst : WReg) (src : WReg)
  /-- SBC R,R (R126). -/
  | sbc_reg_reg (dst : Byte) (src : Byte)
  /-- SBC R,IR (R126). -/
  | sbc_reg_ireg (dst : Byte) (src : Byte)
  /-- SBC R,IM (R126). -/
  | sbc_reg_im (dst : Byte) (im : Byte)
  /-- OR r,r (R132). -/
  | or_r_r (dst : WReg) (src : WReg)
  /-- OR r,Ir (R132). -/
  | or_r_ir (dst : WReg) (src : WReg)
  /-- OR R,R (R132). -/
  | or_reg_reg (dst : Byte) (src : Byte)
  /-- OR R,IR (R132). -/
  | or_reg_ireg (dst : Byte) (src : Byte)
  /-- OR R,IM (R132). -/
  | or_reg_im (dst : Byte) (im : Byte)
  /-- AND r,r (R130). -/
  | and_r_r (dst : WReg) (src : WReg)
  /-- AND r,Ir (R130). -/
  | and_r_ir (dst : WReg) (src : WReg)
  /-- AND R,R (R130). -/
  | and_reg_reg (dst : Byte) (src : Byte)
  /-- AND R,IR (R130). -/
  | and_reg_ireg (dst : Byte) (src : Byte)
  /-- AND R,IM (R130). -/
  | and_reg_im (dst : Byte) (im : Byte)
  /-- TCM r,r (R150). -/
  | tcm_r_r (dst : WReg) (src : WReg)
  /-- TCM r,Ir (R150). -/
  | tcm_r_ir (dst : WReg) (src : WReg)
  /-- TCM R,R (R150). -/
  | tcm_reg_reg (dst : Byte) (src : Byte)
  /-- TCM R,IR (R150). -/
  | tcm_reg_ireg (dst : Byte) (src : Byte)
  /-- TCM R,IM (R150). -/
  | tcm_reg_im (dst : Byte) (im : Byte)
  /-- TM r,r (R151). -/
  | tm_r_r (dst : WReg) (src : WReg)
  /-- TM r,Ir (R151). -/
  | tm_r_ir (dst : WReg) (src : WReg)
  /-- TM R,R (R151). -/
  | tm_reg_reg (dst : Byte) (src : Byte)
  /-- TM R,IR (R151). -/
  | tm_reg_ireg (dst : Byte) (src : Byte)
  /-- TM R,IM (R151). -/
  | tm_reg_im (dst : Byte) (im : Byte)
  /-- CP r,r (R123). -/
  | cp_r_r (dst : WReg) (src : WReg)
  /-- CP r,Ir (R123). -/
  | cp_r_ir (dst : WReg) (src : WReg)
  /-- CP R,R (R123). -/
  | cp_reg_reg (dst : Byte) (src : Byte)
  /-- CP R,IR (R123). -/
  | cp_reg_ireg (dst : Byte) (src : Byte)
  /-- CP R,IM (R123). -/
  | cp_reg_im (dst : Byte) (im : Byte)
  /-- XOR r,r (R133). -/
  | xor_r_r (dst : WReg) (src : WReg)
  /-- XOR r,Ir (R133). -/
  | xor_r_ir (dst : WReg) (src : WReg)
  /-- XOR R,R (R133). -/
  | xor_reg_reg (dst : Byte) (src : Byte)
  /-- XOR R,IR (R133). -/
  | xor_reg_ireg (dst : Byte) (src : Byte)
  /-- XOR R,IM (R133). -/
  | xor_reg_im (dst : Byte) (im : Byte)
  /-- DEC R (R124). -/
  | dec_reg (dst : Byte)
  /-- DEC IR (R124). -/
  | dec_ireg (dst : Byte)
  /-- RLC R (R156). -/
  | rlc_reg (dst : Byte)
  /-- RLC IR (R156). -/
  | rlc_ireg (dst : Byte)
  /-- INC R (R125). -/
  | inc_reg (dst : Byte)
  /-- INC IR (R125). -/
  | inc_ireg (dst : Byte)
  /-- POP R (R110). -/
  | pop_reg (dst : Byte)
  /-- POP IR (R110). -/
  | pop_ireg (dst : Byte)
  /-- COM R (R131). -/
  | com_reg (dst : Byte)
  /-- COM IR (R131). -/
  | com_ireg (dst : Byte)
  /-- PUSH R (R111). -/
  | push_reg (src : Byte)
  /-- PUSH IR (R111). -/
  | push_ireg (src : Byte)
  /-- RL R (R155). -/
  | rl_reg (dst : Byte)
  /-- RL IR (R155). -/
  | rl_ireg (dst : Byte)
  /-- CLR R (R100). -/
  | clr_reg (dst : Byte)
  /-- CLR IR (R100). -/
  | clr_ireg (dst : Byte)
  /-- RRC R (R158). -/
  | rrc_reg (dst : Byte)
  /-- RRC IR (R158). -/
  | rrc_ireg (dst : Byte)
  /-- SRA R (R159). -/
  | sra_reg (dst : Byte)
  /-- SRA IR (R159). -/
  | sra_ireg (dst : Byte)
  /-- RR R (R157). -/
  | rr_reg (dst : Byte)
  /-- RR IR (R157). -/
  | rr_ireg (dst : Byte)
  /-- INC r (R125). -/
  | inc_r (dst : WReg)
  /-- LD r,IM (R101). -/
  | ld_r_im (dst : WReg) (im : Byte)
  /-- LD r,R (R101). -/
  | ld_r_reg (dst : WReg) (src : Byte)
  /-- LD R,r (R101). -/
  | ld_reg_r (dst : Byte) (src : WReg)
  /-- LD r,Ir (R101). -/
  | ld_r_ir (dst : WReg) (src : WReg)
  /-- LD Ir,r (R101). -/
  | ld_ir_r (dst : WReg) (src : WReg)
  /-- LD R,R (R101). -/
  | ld_reg_reg (dst : Byte) (src : Byte)
  /-- LD R,IR (R101). -/
  | ld_reg_ireg (dst : Byte) (src : Byte)
  /-- LD R,IM (R101). -/
  | ld_reg_im (dst : Byte) (im : Byte)
  /-- LD IR,IM (R101). -/
  | ld_ireg_im (dst : Byte) (im : Byte)
  /-- LD IR,R (R101). -/
  | ld_ireg_reg (dst : Byte) (src : Byte)
  /-- LD r,x[r] (R101). -/
  | ld_r_x (dst : WReg) (x : Byte) (idx : WReg)
  /-- LD x[r],r (R101). -/
  | ld_x_r (x : Byte) (idx : WReg) (src : WReg)
  /-- LDC r,Irr (R102). -/
  | ldc_r_irr (dst : WReg) (pair : Pair)
  /-- LDE r,Irr (R104). -/
  | lde_r_irr (dst : WReg) (pair : Pair)
  /-- LDC Irr,r (R103). -/
  | ldc_irr_r (pair : Pair) (src : WReg)
  /-- LDE Irr,r (R105). -/
  | lde_irr_r (pair : Pair) (src : WReg)
  /-- LDC r,XS[rr] (R102). -/
  | ldc_r_xs (dst : WReg) (xs : Byte) (pair : Pair)
  /-- LDE r,XS[rr] (R104). -/
  | lde_r_xs (dst : WReg) (xs : Byte) (pair : Pair)
  /-- LDC XS[rr],r (R103). -/
  | ldc_xs_r (xs : Byte) (pair : Pair) (src : WReg)
  /-- LDE XS[rr],r (R105). -/
  | lde_xs_r (xs : Byte) (pair : Pair) (src : WReg)
  /-- LDC r,DA (R102). -/
  | ldc_r_da (dst : WReg) (addr : Addr)
  /-- LDE r,DA (R104). -/
  | lde_r_da (dst : WReg) (addr : Addr)
  /-- LDC r,XL[rr] (R102). -/
  | ldc_r_xl (dst : WReg) (xl : Addr) (pair : Pair)
  /-- LDE r,XL[rr] (R104). -/
  | lde_r_xl (dst : WReg) (xl : Addr) (pair : Pair)
  /-- LDC DA,r (R103). -/
  | ldc_da_r (addr : Addr) (src : WReg)
  /-- LDE DA,r (R105). -/
  | lde_da_r (addr : Addr) (src : WReg)
  /-- LDC XL[rr],r (R103). -/
  | ldc_xl_r (xl : Addr) (pair : Pair) (src : WReg)
  /-- LDE XL[rr],r (R105). -/
  | lde_xl_r (xl : Addr) (pair : Pair) (src : WReg)
  /-- LDCD r,Irr (R106). -/
  | ldcd_r_irr (dst : WReg) (pair : Pair)
  /-- LDED r,Irr (R107). -/
  | lded_r_irr (dst : WReg) (pair : Pair)
  /-- LDCI r,Irr (R108). -/
  | ldci_r_irr (dst : WReg) (pair : Pair)
  /-- LDEI r,Irr (R109). -/
  | ldei_r_irr (dst : WReg) (pair : Pair)
  /-- CALL DA (R141). -/
  | call_da (addr : Addr)
  /-- CALL IRR (R141). -/
  | call_ipair (dst : Byte)
  /-- IRET (R142). -/
  | iret
  /-- JP cc,DA (R143). -/
  | jp_cc_da (cc : Cond) (addr : Addr)
  /-- JP IRR (R144). -/
  | jp_ipair (dst : Byte)
  /-- JR cc,RA (R145). -/
  | jr_cc_ra (cc : Cond) (ra : Byte)
  /-- RET (R146). -/
  | ret
  /-- CCF (R165). -/
  | ccf
  /-- DI (R166). -/
  | di
  /-- EI (R167). -/
  | ei
  /-- IDLE (R168). -/
  | idle
  /-- NOP (R169). -/
  | nop
  /-- RCF (R170). -/
  | rcf
  /-- SCF (R171). -/
  | scf
  /-- STOP (R172). -/
  | stop
  deriving DecidableEq, Repr

end Sys2Proof
end

