-- ==== Sys2Proof/WellFormed.lean ====
section
/-! DEFINITION. Which instructions are well formed (an encoding exists for them), and which parameter
values are those of a machine the spec describes. -/

namespace Sys2Proof

/-- Well-formed instructions. The one restriction on operands that the encodings make is that of the XL
forms: "cannot use register pair 0-1", whose nibbles stand for the DA forms (30_encoding R65, R68). An odd
pair address of JP @ or CALL @ has an encoding, and running it is a fault (R64). -/
def Instr.wf : Instr → Bool
  | .ldc_r_xl _ _ pair => pair != 0#3
  | .lde_r_xl _ _ pair => pair != 0#3
  | .ldc_xl_r _ pair _ => pair != 0#3
  | .lde_xl_r _ pair _ => pair != 0#3
  | .add_r_r _ _ | .add_r_ir _ _ | .add_reg_reg _ _ | .add_reg_ireg _ _ | .add_reg_im _ _
  | .adc_r_r _ _ | .adc_r_ir _ _ | .adc_reg_reg _ _ | .adc_reg_ireg _ _ | .adc_reg_im _ _
  | .sub_r_r _ _ | .sub_r_ir _ _ | .sub_reg_reg _ _ | .sub_reg_ireg _ _ | .sub_reg_im _ _
  | .sbc_r_r _ _ | .sbc_r_ir _ _ | .sbc_reg_reg _ _ | .sbc_reg_ireg _ _ | .sbc_reg_im _ _ | .or_r_r _ _
  | .or_r_ir _ _ | .or_reg_reg _ _ | .or_reg_ireg _ _ | .or_reg_im _ _ | .and_r_r _ _ | .and_r_ir _ _
  | .and_reg_reg _ _ | .and_reg_ireg _ _ | .and_reg_im _ _ | .tcm_r_r _ _ | .tcm_r_ir _ _
  | .tcm_reg_reg _ _ | .tcm_reg_ireg _ _ | .tcm_reg_im _ _ | .tm_r_r _ _ | .tm_r_ir _ _
  | .tm_reg_reg _ _ | .tm_reg_ireg _ _ | .tm_reg_im _ _ | .cp_r_r _ _ | .cp_r_ir _ _ | .cp_reg_reg _ _
  | .cp_reg_ireg _ _ | .cp_reg_im _ _ | .xor_r_r _ _ | .xor_r_ir _ _ | .xor_reg_reg _ _
  | .xor_reg_ireg _ _ | .xor_reg_im _ _ | .dec_reg _ | .dec_ireg _ | .rlc_reg _ | .rlc_ireg _
  | .inc_reg _ | .inc_ireg _ | .pop_reg _ | .pop_ireg _ | .com_reg _ | .com_ireg _ | .push_reg _
  | .push_ireg _ | .rl_reg _ | .rl_ireg _ | .clr_reg _ | .clr_ireg _ | .rrc_reg _ | .rrc_ireg _
  | .sra_reg _ | .sra_ireg _ | .rr_reg _ | .rr_ireg _ | .inc_r _ | .ld_r_im _ _ | .ld_r_reg _ _
  | .ld_reg_r _ _ | .ld_r_ir _ _ | .ld_ir_r _ _ | .ld_reg_reg _ _ | .ld_reg_ireg _ _ | .ld_reg_im _ _
  | .ld_ireg_im _ _ | .ld_ireg_reg _ _ | .ld_r_x _ _ _ | .ld_x_r _ _ _ | .ldc_r_irr _ _
  | .lde_r_irr _ _ | .ldc_irr_r _ _ | .lde_irr_r _ _ | .ldc_r_xs _ _ _ | .lde_r_xs _ _ _
  | .ldc_xs_r _ _ _ | .lde_xs_r _ _ _ | .ldc_r_da _ _ | .lde_r_da _ _ | .ldc_da_r _ _ | .lde_da_r _ _
  | .ldcd_r_irr _ _ | .lded_r_irr _ _ | .ldci_r_irr _ _ | .ldei_r_irr _ _ | .call_da _ | .call_ipair _
  | .iret | .jp_cc_da _ _ | .jp_ipair _ | .jr_cc_ra _ _ | .ret | .ccf | .di | .ei | .idle | .nop | .rcf
  | .scf | .stop => true

/-- Parameter values of one machine: FLAGS, SP, SYM and STOPCON are four different registers
(10_state R16, R24, R25, R26). -/
def Config.wf (c : Config) : Bool :=
  c.symAddr != flagsAddr && c.symAddr != spAddr &&
    match c.stopconAddr with
    | none => true
    | some a => a != flagsAddr && a != spAddr && a != c.symAddr

end Sys2Proof
end

