-- ==== Sys2Proof/Decode.lean ====
section
/-! DEFINITION. The decoder, total on any bytes and rejecting by name, and after it the encoder, both
written from the formats and the opcode map of 30_encoding (R61, R69, R70). -/

namespace Sys2Proof

/-- Bits 7..4 of a byte (R61: `hi|lo` means bits 7..4 | bits 3..0). -/
def hiNib (b : Byte) : BitVec 4 := b.extractLsb' 4 4

/-- Bits 3..0 of a byte (R61). -/
def loNib (b : Byte) : BitVec 4 := b.extractLsb' 0 4

/-- The byte with these two nibbles (R61). -/
def joinNib (hi lo : BitVec 4) : Byte := hi ++ lo

/-- Bits 3..1 of a pair nibble: the pair number halved (R64, R68). -/
def pairOf (n : BitVec 4) : Pair := n.extractLsb' 1 3

/-- Bit 0 of a pair nibble: 0 for program memory, 1 for external data memory (R68). -/
def spaceOf (n : BitVec 4) : Bool := n.getLsbD 0

/-- The pair nibble of a pair and a space bit (R68). -/
def pairNib (p : Pair) (space : BitVec 1) : BitVec 4 := p ++ space

/-- Bits 15..8 of a 16-bit value. -/
def hiByte (a : Addr) : Byte := a.extractLsb' 8 8

/-- Bits 7..0 of a 16-bit value. -/
def loByte (a : Addr) : Byte := a.extractLsb' 0 8

/-- The 16-bit value with this high byte and this low byte. -/
def word16 (hi lo : Byte) : Addr := hi ++ lo

/-- The condition code of a 4-bit field (43_program_control R140, Table 6-6). -/
def condOfBits (n : BitVec 4) : Cond :=
  match n.toNat with
  | 0 => .f | 1 => .lt | 2 => .le | 3 => .ule | 4 => .ov | 5 => .mi | 6 => .z | 7 => .c
  | 8 => .t | 9 => .ge | 10 => .gt | 11 => .ugt | 12 => .nov | 13 => .pl | 14 => .nz | _ => .nc

/-- The 4-bit field of a condition code (R140, Table 6-6). -/
def condBits : Cond → BitVec 4
  | .f => 0x0#4 | .lt => 0x1#4 | .le => 0x2#4 | .ule => 0x3#4 | .ov => 0x4#4 | .mi => 0x5#4
  | .z => 0x6#4 | .c => 0x7#4 | .t => 0x8#4 | .ge => 0x9#4 | .gt => 0xA#4 | .ugt => 0xB#4
  | .nov => 0xC#4 | .pl => 0xD#4 | .nz => 0xE#4 | .nc => 0xF#4

/-- The length in bytes of the instruction that a first byte begins (R69); `none` for the 58 undefined
opcode bytes (R71). By column of the opcode map (low nibble), then by row. -/
def opLength (b : Byte) : Option Nat :=
  let h := (hiNib b).toNat
  match (loNib b).toNat with
  | 0 => match h with
    | 4 | 8 | 10 | 15 => none
    | _ => some 2
  | 1 => match h with
    | 3 | 4 | 8 | 10 | 15 => none
    | _ => some 2
  | 2 => match h with
    | 8 | 9 | 12 | 13 | 15 => none
    | _ => some 2
  | 3 => match h with
    | 8 | 9 | 15 => none
    | _ => some 2
  | 4 => match h with
    | 8 | 9 | 12 | 13 => none
    | 15 => some 2
    | _ => some 3
  | 5 => match h with
    | 8 | 9 | 12 | 13 => none
    | _ => some 3
  | 6 => match h with
    | 8 | 9 | 12 => none
    | _ => some 3
  | 7 => match h with
    | 8 | 9 | 14 | 15 => some 3
    | 10 | 11 => some 4
    | 12 | 13 => some 2
    | _ => none
  | 8 | 9 | 11 | 12 => some 2
  | 10 => none
  | 13 => some 3
  | 14 => some 1
  | _ => match h with
    | 0 | 1 | 2 | 3 | 4 | 5 => none
    | _ => some 1

/-- Column 0 of the opcode map, by high nibble: one-operand forms of kind R and JP IRR (R70, R76). -/
def col0 (h : BitVec 4) (b2 : Byte) : Option Instr :=
  match h.toNat with
  | 0 => some (.dec_reg b2)
  | 1 => some (.rlc_reg b2)
  | 2 => some (.inc_reg b2)
  | 3 => some (.jp_ipair b2)
  | 5 => some (.pop_reg b2)
  | 6 => some (.com_reg b2)
  | 7 => some (.push_reg b2)
  | 9 => some (.rl_reg b2)
  | 11 => some (.clr_reg b2)
  | 12 => some (.rrc_reg b2)
  | 13 => some (.sra_reg b2)
  | 14 => some (.rr_reg b2)
  | _ => none

/-- Column 1 of the opcode map, by high nibble: one-operand forms of kind IR (R70, R76). -/
def col1 (h : BitVec 4) (b2 : Byte) : Option Instr :=
  match h.toNat with
  | 0 => some (.dec_ireg b2)
  | 1 => some (.rlc_ireg b2)
  | 2 => some (.inc_ireg b2)
  | 5 => some (.pop_ireg b2)
  | 6 => some (.com_ireg b2)
  | 7 => some (.push_ireg b2)
  | 9 => some (.rl_ireg b2)
  | 11 => some (.clr_ireg b2)
  | 12 => some (.rrc_ireg b2)
  | 13 => some (.sra_ireg b2)
  | 14 => some (.rr_ireg b2)
  | _ => none

/-- Column 2 of the opcode map, by high nibble: two-operand forms r,r; E2 is LDCD or LDED by the pair nibble (R68, R70, R75). -/
def col2 (h : BitVec 4) (b2 : Byte) : Option Instr :=
  match h.toNat with
  | 0 => some (.add_r_r (hiNib b2) (loNib b2))
  | 1 => some (.adc_r_r (hiNib b2) (loNib b2))
  | 2 => some (.sub_r_r (hiNib b2) (loNib b2))
  | 3 => some (.sbc_r_r (hiNib b2) (loNib b2))
  | 4 => some (.or_r_r (hiNib b2) (loNib b2))
  | 5 => some (.and_r_r (hiNib b2) (loNib b2))
  | 6 => some (.tcm_r_r (hiNib b2) (loNib b2))
  | 7 => some (.tm_r_r (hiNib b2) (loNib b2))
  | 10 => some (.cp_r_r (hiNib b2) (loNib b2))
  | 11 => some (.xor_r_r (hiNib b2) (loNib b2))
  | 14 => some (if spaceOf (loNib b2) then .lded_r_irr (hiNib b2) (pairOf (loNib b2))
      else .ldcd_r_irr (hiNib b2) (pairOf (loNib b2)))
  | _ => none

/-- Column 3 of the opcode map, by high nibble: two-operand forms r,Ir; C3, D3 and E3 move memory (R68, R70, R75). -/
def col3 (h : BitVec 4) (b2 : Byte) : Option Instr :=
  match h.toNat with
  | 0 => some (.add_r_ir (hiNib b2) (loNib b2))
  | 1 => some (.adc_r_ir (hiNib b2) (loNib b2))
  | 2 => some (.sub_r_ir (hiNib b2) (loNib b2))
  | 3 => some (.sbc_r_ir (hiNib b2) (loNib b2))
  | 4 => some (.or_r_ir (hiNib b2) (loNib b2))
  | 5 => some (.and_r_ir (hiNib b2) (loNib b2))
  | 6 => some (.tcm_r_ir (hiNib b2) (loNib b2))
  | 7 => some (.tm_r_ir (hiNib b2) (loNib b2))
  | 10 => some (.cp_r_ir (hiNib b2) (loNib b2))
  | 11 => some (.xor_r_ir (hiNib b2) (loNib b2))
  | 12 => some (if spaceOf (loNib b2) then .lde_r_irr (hiNib b2) (pairOf (loNib b2))
      else .ldc_r_irr (hiNib b2) (pairOf (loNib b2)))
  | 13 => some (if spaceOf (loNib b2) then .lde_irr_r (pairOf (loNib b2)) (hiNib b2)
      else .ldc_irr_r (pairOf (loNib b2)) (hiNib b2))
  | 14 => some (if spaceOf (loNib b2) then .ldei_r_irr (hiNib b2) (pairOf (loNib b2))
      else .ldci_r_irr (hiNib b2) (pairOf (loNib b2)))
  | _ => none

/-- Column 4 of the opcode map, by high nibble: two-operand forms R,R, bytes source then destination; E4 LD, F4 CALL IRR (R61, R70, R75). -/
def col4 (h : BitVec 4) (b2 b3 : Byte) : Option Instr :=
  match h.toNat with
  | 0 => some (.add_reg_reg b3 b2)
  | 1 => some (.adc_reg_reg b3 b2)
  | 2 => some (.sub_reg_reg b3 b2)
  | 3 => some (.sbc_reg_reg b3 b2)
  | 4 => some (.or_reg_reg b3 b2)
  | 5 => some (.and_reg_reg b3 b2)
  | 6 => some (.tcm_reg_reg b3 b2)
  | 7 => some (.tm_reg_reg b3 b2)
  | 10 => some (.cp_reg_reg b3 b2)
  | 11 => some (.xor_reg_reg b3 b2)
  | 14 => some (.ld_reg_reg b3 b2)
  | 15 => some (.call_ipair b2)
  | _ => none

/-- Column 5 of the opcode map, by high nibble: two-operand forms R,IR, bytes source then destination; E5 is LD R,IR and F5 LD IR,R
(R61, R70; 90_conflicts C15; PRESUMED, log 11). -/
def col5 (h : BitVec 4) (b2 b3 : Byte) : Option Instr :=
  match h.toNat with
  | 0 => some (.add_reg_ireg b3 b2)
  | 1 => some (.adc_reg_ireg b3 b2)
  | 2 => some (.sub_reg_ireg b3 b2)
  | 3 => some (.sbc_reg_ireg b3 b2)
  | 4 => some (.or_reg_ireg b3 b2)
  | 5 => some (.and_reg_ireg b3 b2)
  | 6 => some (.tcm_reg_ireg b3 b2)
  | 7 => some (.tm_reg_ireg b3 b2)
  | 10 => some (.cp_reg_ireg b3 b2)
  | 11 => some (.xor_reg_ireg b3 b2)
  | 14 => some (.ld_reg_ireg b3 b2)
  | 15 => some (.ld_ireg_reg b3 b2)
  | _ => none

/-- Column 6 of the opcode map, by high nibble: two-operand forms R,IM, bytes destination then immediate; D6, E6 LD, F6 CALL DA, high byte
first (R61, R66, R70; PRESUMED, log 10). -/
def col6 (h : BitVec 4) (b2 b3 : Byte) : Option Instr :=
  match h.toNat with
  | 0 => some (.add_reg_im b2 b3)
  | 1 => some (.adc_reg_im b2 b3)
  | 2 => some (.sub_reg_im b2 b3)
  | 3 => some (.sbc_reg_im b2 b3)
  | 4 => some (.or_reg_im b2 b3)
  | 5 => some (.and_reg_im b2 b3)
  | 6 => some (.tcm_reg_im b2 b3)
  | 7 => some (.tm_reg_im b2 b3)
  | 10 => some (.cp_reg_im b2 b3)
  | 11 => some (.xor_reg_im b2 b3)
  | 13 => some (.ld_ireg_im b2 b3)
  | 14 => some (.ld_reg_im b2 b3)
  | 15 => some (.call_da (word16 b2 b3))
  | _ => none

/-- Column 7 of the opcode map, by high nibble: LD through a pointer or an index, and LDC or LDE by the
pair nibble; in A7 and B7 the nibbles 0 and 1 are the DA forms, and 16-bit fields stand low byte first
(R61, R65, R66, R68, R70). -/
def col7 (h : BitVec 4) (b2 b3 b4 : Byte) : Option Instr :=
  match h.toNat with
  | 8 => some (.ld_r_x (hiNib b2) b3 (loNib b2))
  | 9 => some (.ld_x_r b3 (loNib b2) (hiNib b2))
  | 10 =>
    if pairOf (loNib b2) = 0#3 then
      some (if spaceOf (loNib b2) then .lde_r_da (hiNib b2) (word16 b4 b3)
        else .ldc_r_da (hiNib b2) (word16 b4 b3))
    else
      some (if spaceOf (loNib b2) then .lde_r_xl (hiNib b2) (word16 b4 b3) (pairOf (loNib b2))
        else .ldc_r_xl (hiNib b2) (word16 b4 b3) (pairOf (loNib b2)))
  | 11 =>
    if pairOf (loNib b2) = 0#3 then
      some (if spaceOf (loNib b2) then .lde_da_r (word16 b4 b3) (hiNib b2)
        else .ldc_da_r (word16 b4 b3) (hiNib b2))
    else
      some (if spaceOf (loNib b2) then .lde_xl_r (word16 b4 b3) (pairOf (loNib b2)) (hiNib b2)
        else .ldc_xl_r (word16 b4 b3) (pairOf (loNib b2)) (hiNib b2))
  | 12 => some (.ld_r_ir (hiNib b2) (loNib b2))
  | 13 => some (.ld_ir_r (hiNib b2) (loNib b2))
  | 14 => some (if spaceOf (loNib b2) then .lde_r_xs (hiNib b2) b3 (pairOf (loNib b2))
      else .ldc_r_xs (hiNib b2) b3 (pairOf (loNib b2)))
  | 15 => some (if spaceOf (loNib b2) then .lde_xs_r b3 (pairOf (loNib b2)) (hiNib b2)
      else .ldc_xs_r b3 (pairOf (loNib b2)) (hiNib b2))
  | _ => none

/-- Column F of the opcode map, by high nibble: the one-byte control instructions (R70; 7F, CF and FF PRESUMED, log 12). -/
def colF (h : BitVec 4) : Option Instr :=
  match h.toNat with
  | 6 => some .idle
  | 7 => some .stop
  | 8 => some .di
  | 9 => some .ei
  | 10 => some .ret
  | 11 => some .iret
  | 12 => some .rcf
  | 13 => some .scf
  | 14 => some .ccf
  | 15 => some .nop
  | _ => none

/-- The instruction that four bytes begin, the bytes past its length unread: the opcode map of R70, by
column (low nibble of the first byte). In columns 8, 9, B, C, D, E the high nibble is an operand (R60). -/
def decodeOp (b1 b2 b3 b4 : Byte) : Option Instr :=
  let h := hiNib b1
  match (loNib b1).toNat with
  | 0 => col0 h b2
  | 1 => col1 h b2
  | 2 => col2 h b2
  | 3 => col3 h b2
  | 4 => col4 h b2 b3
  | 5 => col5 h b2 b3
  | 6 => col6 h b2 b3
  | 7 => col7 h b2 b3 b4
  | 8 => some (.ld_r_reg h b2)
  | 9 => some (.ld_reg_r b2 h)
  | 10 => none
  | 11 => some (.jr_cc_ra (condOfBits h) b2)
  | 12 => some (.ld_r_im h b2)
  | 13 => some (.jp_cc_da (condOfBits h) (word16 b2 b3))
  | 14 => some (.inc_r h)
  | _ => colF h

/-- What decoding a list of bytes can answer. -/
inductive Decoded where
  /-- An instruction, and the bytes that follow it. -/
  | instr (i : Instr) (rest : List Byte)
  /-- The first byte is one of the 58 undefined opcode bytes (R71). -/
  | illegalOpcode (b : Byte)
  /-- The instruction is longer than the bytes given. -/
  | truncated
  deriving DecidableEq, Repr

/-- Decode the instruction a list of bytes begins with: the first byte gives the length (R69), the bytes
of that length the instruction (R60). -/
def decode : List Byte → Decoded
  | [] => .truncated
  | b1 :: bs =>
    match opLength b1 with
    | none => .illegalOpcode b1
    | some n =>
      if bs.length + 1 < n then .truncated
      else
        match decodeOp b1 (bs.getD 0 0#8) (bs.getD 1 0#8) (bs.getD 2 0#8) with
        | none => .illegalOpcode b1
        | some i => .instr i (bs.drop (n - 1))

/-- The bytes of an instruction in address order, from the formats of R61 and the opcodes of R70. -/
def encode : Instr → List Byte
  | .add_r_r dst src => [0x02#8, joinNib dst src]
  | .add_r_ir dst src => [0x03#8, joinNib dst src]
  | .add_reg_reg dst src => [0x04#8, src, dst]
  | .add_reg_ireg dst src => [0x05#8, src, dst]
  | .add_reg_im dst im => [0x06#8, dst, im]
  | .adc_r_r dst src => [0x12#8, joinNib dst src]
  | .adc_r_ir dst src => [0x13#8, joinNib dst src]
  | .adc_reg_reg dst src => [0x14#8, src, dst]
  | .adc_reg_ireg dst src => [0x15#8, src, dst]
  | .adc_reg_im dst im => [0x16#8, dst, im]
  | .sub_r_r dst src => [0x22#8, joinNib dst src]
  | .sub_r_ir dst src => [0x23#8, joinNib dst src]
  | .sub_reg_reg dst src => [0x24#8, src, dst]
  | .sub_reg_ireg dst src => [0x25#8, src, dst]
  | .sub_reg_im dst im => [0x26#8, dst, im]
  | .sbc_r_r dst src => [0x32#8, joinNib dst src]
  | .sbc_r_ir dst src => [0x33#8, joinNib dst src]
  | .sbc_reg_reg dst src => [0x34#8, src, dst]
  | .sbc_reg_ireg dst src => [0x35#8, src, dst]
  | .sbc_reg_im dst im => [0x36#8, dst, im]
  | .or_r_r dst src => [0x42#8, joinNib dst src]
  | .or_r_ir dst src => [0x43#8, joinNib dst src]
  | .or_reg_reg dst src => [0x44#8, src, dst]
  | .or_reg_ireg dst src => [0x45#8, src, dst]
  | .or_reg_im dst im => [0x46#8, dst, im]
  | .and_r_r dst src => [0x52#8, joinNib dst src]
  | .and_r_ir dst src => [0x53#8, joinNib dst src]
  | .and_reg_reg dst src => [0x54#8, src, dst]
  | .and_reg_ireg dst src => [0x55#8, src, dst]
  | .and_reg_im dst im => [0x56#8, dst, im]
  | .tcm_r_r dst src => [0x62#8, joinNib dst src]
  | .tcm_r_ir dst src => [0x63#8, joinNib dst src]
  | .tcm_reg_reg dst src => [0x64#8, src, dst]
  | .tcm_reg_ireg dst src => [0x65#8, src, dst]
  | .tcm_reg_im dst im => [0x66#8, dst, im]
  | .tm_r_r dst src => [0x72#8, joinNib dst src]
  | .tm_r_ir dst src => [0x73#8, joinNib dst src]
  | .tm_reg_reg dst src => [0x74#8, src, dst]
  | .tm_reg_ireg dst src => [0x75#8, src, dst]
  | .tm_reg_im dst im => [0x76#8, dst, im]
  | .cp_r_r dst src => [0xA2#8, joinNib dst src]
  | .cp_r_ir dst src => [0xA3#8, joinNib dst src]
  | .cp_reg_reg dst src => [0xA4#8, src, dst]
  | .cp_reg_ireg dst src => [0xA5#8, src, dst]
  | .cp_reg_im dst im => [0xA6#8, dst, im]
  | .xor_r_r dst src => [0xB2#8, joinNib dst src]
  | .xor_r_ir dst src => [0xB3#8, joinNib dst src]
  | .xor_reg_reg dst src => [0xB4#8, src, dst]
  | .xor_reg_ireg dst src => [0xB5#8, src, dst]
  | .xor_reg_im dst im => [0xB6#8, dst, im]
  | .dec_reg dst => [0x00#8, dst]
  | .dec_ireg dst => [0x01#8, dst]
  | .rlc_reg dst => [0x10#8, dst]
  | .rlc_ireg dst => [0x11#8, dst]
  | .inc_reg dst => [0x20#8, dst]
  | .inc_ireg dst => [0x21#8, dst]
  | .pop_reg dst => [0x50#8, dst]
  | .pop_ireg dst => [0x51#8, dst]
  | .com_reg dst => [0x60#8, dst]
  | .com_ireg dst => [0x61#8, dst]
  | .push_reg src => [0x70#8, src]
  | .push_ireg src => [0x71#8, src]
  | .rl_reg dst => [0x90#8, dst]
  | .rl_ireg dst => [0x91#8, dst]
  | .clr_reg dst => [0xB0#8, dst]
  | .clr_ireg dst => [0xB1#8, dst]
  | .rrc_reg dst => [0xC0#8, dst]
  | .rrc_ireg dst => [0xC1#8, dst]
  | .sra_reg dst => [0xD0#8, dst]
  | .sra_ireg dst => [0xD1#8, dst]
  | .rr_reg dst => [0xE0#8, dst]
  | .rr_ireg dst => [0xE1#8, dst]
  | .inc_r dst => [joinNib dst 0xE#4]
  | .ld_r_im dst im => [joinNib dst 0xC#4, im]
  | .ld_r_reg dst src => [joinNib dst 0x8#4, src]
  | .ld_reg_r dst src => [joinNib src 0x9#4, dst]
  | .ld_r_ir dst src => [0xC7#8, joinNib dst src]
  | .ld_ir_r dst src => [0xD7#8, joinNib dst src]
  | .ld_reg_reg dst src => [0xE4#8, src, dst]
  | .ld_reg_ireg dst src => [0xE5#8, src, dst]
  | .ld_reg_im dst im => [0xE6#8, dst, im]
  | .ld_ireg_im dst im => [0xD6#8, dst, im]
  | .ld_ireg_reg dst src => [0xF5#8, src, dst]
  | .ld_r_x dst x idx => [0x87#8, joinNib dst idx, x]
  | .ld_x_r x idx src => [0x97#8, joinNib src idx, x]
  | .ldc_r_irr dst pair => [0xC3#8, joinNib dst (pairNib pair 0#1)]
  | .lde_r_irr dst pair => [0xC3#8, joinNib dst (pairNib pair 1#1)]
  | .ldc_irr_r pair src => [0xD3#8, joinNib src (pairNib pair 0#1)]
  | .lde_irr_r pair src => [0xD3#8, joinNib src (pairNib pair 1#1)]
  | .ldc_r_xs dst xs pair => [0xE7#8, joinNib dst (pairNib pair 0#1), xs]
  | .lde_r_xs dst xs pair => [0xE7#8, joinNib dst (pairNib pair 1#1), xs]
  | .ldc_xs_r xs pair src => [0xF7#8, joinNib src (pairNib pair 0#1), xs]
  | .lde_xs_r xs pair src => [0xF7#8, joinNib src (pairNib pair 1#1), xs]
  | .ldc_r_da dst addr => [0xA7#8, joinNib dst (pairNib 0#3 0#1), loByte addr, hiByte addr]
  | .lde_r_da dst addr => [0xA7#8, joinNib dst (pairNib 0#3 1#1), loByte addr, hiByte addr]
  | .ldc_r_xl dst xl pair => [0xA7#8, joinNib dst (pairNib pair 0#1), loByte xl, hiByte xl]
  | .lde_r_xl dst xl pair => [0xA7#8, joinNib dst (pairNib pair 1#1), loByte xl, hiByte xl]
  | .ldc_da_r addr src => [0xB7#8, joinNib src (pairNib 0#3 0#1), loByte addr, hiByte addr]
  | .lde_da_r addr src => [0xB7#8, joinNib src (pairNib 0#3 1#1), loByte addr, hiByte addr]
  | .ldc_xl_r xl pair src => [0xB7#8, joinNib src (pairNib pair 0#1), loByte xl, hiByte xl]
  | .lde_xl_r xl pair src => [0xB7#8, joinNib src (pairNib pair 1#1), loByte xl, hiByte xl]
  | .ldcd_r_irr dst pair => [0xE2#8, joinNib dst (pairNib pair 0#1)]
  | .lded_r_irr dst pair => [0xE2#8, joinNib dst (pairNib pair 1#1)]
  | .ldci_r_irr dst pair => [0xE3#8, joinNib dst (pairNib pair 0#1)]
  | .ldei_r_irr dst pair => [0xE3#8, joinNib dst (pairNib pair 1#1)]
  | .call_da addr => [0xF6#8, hiByte addr, loByte addr]
  | .call_ipair dst => [0xF4#8, dst]
  | .iret => [0xBF#8]
  | .jp_cc_da cc addr => [joinNib (condBits cc) 0xD#4, hiByte addr, loByte addr]
  | .jp_ipair dst => [0x30#8, dst]
  | .jr_cc_ra cc ra => [joinNib (condBits cc) 0xB#4, ra]
  | .ret => [0xAF#8]
  | .ccf => [0xEF#8]
  | .di => [0x8F#8]
  | .ei => [0x9F#8]
  | .idle => [0x6F#8]
  | .nop => [0xFF#8]
  | .rcf => [0xCF#8]
  | .scf => [0xDF#8]
  | .stop => [0x7F#8]

/-- The length of an instruction in bytes (R69, R217). -/
def Instr.length (i : Instr) : Nat := (encode i).length

/-- The bytes of a table word: the table numbers a row's bits as ONE number with byte 1 its most
significant byte ("fixed" of ADD r,r is bits 15..8 = 02H), so the first byte is the top one of `nbits`;
every byte past them is 0, up to four bytes (log 26). -/
def tableBytes (nbits w : Nat) : List Byte :=
  let n := nbits / 8
  (List.range 4).map fun k => if k < n then BitVec.ofNat 8 (w >>> (8 * (n - 1 - k))) else 0#8

/-- The instruction the decoder reads from a table word (log 26). -/
def decodeTableWord (nbits w : Nat) : Option Instr :=
  match decode (tableBytes nbits w) with
  | .instr i _ => some i
  | .illegalOpcode _ => none
  | .truncated => none

end Sys2Proof
end

