-- ==== Sys2Proof/Machine/State.lean ====
section
/-! DEFINITION. The state of the machine as plain data, the reasons it stops, and the state after reset
(10_state). The parameters, the step counter and the reset counter are the model's own fields. -/

namespace Sys2Proof.Machine

/-- Why the model stops: the ModelFaults of 60_exceptions R180. None is an event of the hardware; each
marks a case outside what the spec defines, leaves no state and ends the run, so each is SAFE: no claim
about what follows can be proved. -/
inductive Fault where
  /-- The fetch of one of the 58 undefined opcode bytes (30_encoding R71). Raised by the fetch. Safe. -/
  | illegalOpcode (b : Byte)
  /-- A fetch, LDC, LDCD, LDCI or vector read at or above PM_SIZE, or LDE, LDED, LDEI at or above
  DM_SIZE (10_state R14, 20_memory R53). Safe. -/
  | addressOutOfRange (a : Addr)
  /-- JP @ or CALL @ with an odd pair address (30_encoding R64). Safe. -/
  | oddRegisterPair (a : Byte)
  /-- A flag writer whose destination is FLAGS; POP into SP; PUSH of SP; LDCD, LDED, LDCI, LDEI into their
  own address pair; CALL @ whose pair meets SP or the two stack bytes (10_state R22; 40_load R106 to R111;
  43_program_control R141). Safe. -/
  | unpredictable
  /-- Any access to a location RF_MAP classes as not implemented (10_state R27). Safe. -/
  | unimplementedRegister (a : Byte)
  /-- An LDC store form where PM_WRITABLE is false (20_memory R50). Safe. -/
  | progMemWriteUnsupported
  /-- The fetch of a program-memory byte written since reset (20_memory R50). Safe. -/
  | fetchOfModifiedCode (a : Addr)
  /-- STOP while STOPCON_ADDR is not configured (46_cpu_control R172). Safe. -/
  | parameterOpen
  deriving DecidableEq, Repr

/-- Why the model gives an instruction no meaning. -/
inductive Refusal where
  /-- An arm of exec without a meaning yet; none is left. Raised by exec alone. Safe. -/
  | notModelled (mnemonic : String)
  deriving DecidableEq, Repr

/-- The run state (10_state R30). -/
inductive RunState where
  | running | idle | stop
  deriving DecidableEq, Repr

/-- An outstanding interrupt request: its source, and whether the environment marks it external, able to
release Stop mode (60_exceptions R182). -/
structure Request where
  source : Nat
  external : Bool
  deriving DecidableEq, Repr

/-- A write to a platform register (10_state R27: "a write is recorded as an output event"). -/
structure OutputEvent where
  addr : Byte
  value : Byte
  deriving DecidableEq, Repr

/-- A memory as the list of its written bytes, addresses strictly rising. -/
abbrev Memory := List Host.Cell

/-- The canonical form of a memory: addresses strictly rise. An unlisted address holds no known byte
(`Memory.unlisted`), so no entry can equal what an unlisted address reads as. -/
abbrev Memory.wf (m : Memory) : Prop := m.Pairwise (fun c d => c.1 < d.1)

/-- What an unlisted address reads as: no known byte. The machine then reads a free value (log 7, log 8). -/
abbrev Memory.unlisted : Option Byte := none

/-- The state of the machine (10_state: register file, program counter, the two memories, run state and
pending requests), the environment's reset line, and the model's own fields `cfg`, `tick`, `epoch`. -/
structure State where
  /-- The implementation parameters (00_scope R4), which no step changes (log 1). -/
  cfg : Config
  /-- The register file: every CPU register but PC is one of its 256 locations (10_state R10). -/
  regs : Vector Byte 256
  /-- The program counter (10_state R14). -/
  pc : Addr
  /-- Program memory (10_state R28). -/
  pm : Memory
  /-- The program-memory addresses written since reset, strictly rising (20_memory R50). -/
  pmWritten : List Nat
  /-- External data memory (10_state R29). -/
  dm : Memory
  /-- Running, Idle or Stop (10_state R30). -/
  runState : RunState
  /-- The outstanding interrupt requests (10_state R31). -/
  pending : List Request
  /-- The environment asserts reset (60_exceptions R184). -/
  resetAsserted : Bool
  /-- The writes to platform registers so far, oldest first (10_state R27). -/
  outputs : List OutputEvent
  /-- MODEL's own: the steps so far; indexes the free values of a step (log 28). -/
  tick : Nat
  /-- MODEL's own: the resets so far; indexes what reset leaves unspecified (log 28). -/
  epoch : Nat
  deriving DecidableEq, Repr

/-- The machine right after reset (10_state R32, 70_reset_and_hazards R210): pc at RESET_ADDR, running,
SYM.2 = 0, nothing pending. Every register-file location holds 00H, a value the spec does not give (DESIGN
CHOICE, log 3: UNSAFE, R32 says unspecified). The memories list nothing: the program is loaded from outside
(log 25). -/
def State.reset : State where
  cfg := Config.default
  regs := Vector.replicate 256 0#8
  pc := Config.default.resetAddr
  pm := []
  pmWritten := []
  dm := []
  runState := .running
  pending := []
  resetAsserted := false
  outputs := []
  tick := 0
  epoch := 0

end Sys2Proof.Machine
end

