-- ==== Sys2Proof/Machine/Ops.lean ====
section
/-! DEFINITION. The named operations over registers and memory that the meanings are written with, and
beside them interrupt entry, the return from it, and reset (00_scope R6; 10_state; 20_memory;
60_exceptions R185; 70_reset_and_hazards R210). An operation that can stop answers in `Except Fault`. -/

namespace Sys2Proof.Machine

/-! ### The register file -/

/-- The byte stored at a register-file location. -/
def State.reg (s : State) (a : Byte) : Byte := s.regs[a.toNat]'a.isLt

/-- Store a byte at a register-file location. -/
def State.setReg (s : State) (a v : Byte) : State := { s with regs := s.regs.set a.toNat v a.isLt }

/-- `w(n)`: the register-file address of working register Rn (10_state R11, 00_scope R6). -/
def State.wr (s : State) (n : WReg) : Byte := s.cfg.wrBase + n.zeroExtend 8

/-- The address of the even register of a working register pair (30_encoding R64). -/
def State.pairAddr (s : State) (p : Pair) : Byte := s.wr (pairNib p 0#1)

/-- The class of a register-file location: FLAGS, SP, SYM and STOPCON are control registers and the
sixteen working registers plain storage whatever RF_MAP says, every other location is as RF_MAP says
(10_state R27; 93_implementation_defined U20; DEDUCED, log 23). -/
def State.classOf (s : State) (a : Byte) : RegClass :=
  if a = flagsAddr ∨ a = spAddr ∨ a = s.cfg.symAddr ∨ s.cfg.stopconAddr = some a then .control
  else if (a - s.cfg.wrBase).toNat < 16 then .plain
  else s.cfg.rfMap[a.toNat]'a.isLt

/-- The byte stored at FLAGS as a read finds it: bits 7..4 as stored, bits 3..0 a free value
(10_state R21, log 5). -/
def State.flagsRead (s : State) (slot : Nat) : Byte :=
  joinNib (hiNib (s.reg flagsAddr)) (Config.flagsLow s.tick slot)

/-- `x[a]`: the read number `slot` of this step, of location `a` (00_scope R6). Storage gives its byte,
FLAGS with a free low nibble (R21), a platform register a free value (R27), and a location that is not
implemented stops (R27). -/
def State.read (s : State) (slot : Nat) (a : Byte) : Except Fault Byte :=
  match s.classOf a with
  | .plain | .control => .ok (if a = flagsAddr then s.flagsRead slot else s.reg a)
  | .platform => .ok (Config.platformRead s.tick slot a)
  | .absent => .error (.unimplementedRegister a)

/-- `x[a] <- v` (00_scope R6). A write to a platform register is an output event (10_state R27). -/
def State.write (s : State) (a v : Byte) : Except Fault State :=
  match s.classOf a with
  | .plain | .control => .ok (s.setReg a v)
  | .platform => .ok { s with outputs := s.outputs ++ [⟨a, v⟩] }
  | .absent => .error (.unimplementedRegister a)

/-- `xx[a]`: the register pair at `a`, high byte at `a`, low byte at `(a+1) mod 256` (10_state R12,
20_memory R52). It is two reads, `slot` and `slot + 1`. -/
def State.readPair (s : State) (slot : Nat) (a : Byte) : Except Fault Addr := do
  let hi ← s.read slot a
  let lo ← s.read (slot + 1) (a + 1#8)
  .ok (word16 hi lo)

/-- `xx[a] <- v` (00_scope R6): the high byte first. -/
def State.writePair (s : State) (a : Byte) (v : Addr) : Except Fault State := do
  let s1 ← s.write a (hiByte v)
  s1.write (a + 1#8) (loByte v)

/-! ### Program counter, SP and SYM -/

/-- The address of the byte after an instruction of `len` bytes: `npc` (00_scope R6, 10_state R15). -/
def State.npc (s : State) (len : Nat) : Addr := s.pc + BitVec.ofNat 16 len

/-- `pc <- npc` (10_state R15). -/
def State.advance (s : State) (len : Nat) : State := { s with pc := s.npc len }

/-- SP, the location D9H (10_state R24). -/
def State.sp (s : State) : Byte := s.reg spAddr

/-- SYM.2, the global interrupt enable (10_state R25). -/
def State.interruptsEnabled (s : State) : Bool := (s.reg s.cfg.symAddr).getLsbD 2

/-- SYM.2 <- 1, the other bits unchanged (46_cpu_control R167). -/
def State.enableInterrupts (s : State) : State :=
  s.setReg s.cfg.symAddr (s.reg s.cfg.symAddr ||| 0x04#8)

/-- SYM.2 <- 0, the other bits unchanged (46_cpu_control R166). -/
def State.disableInterrupts (s : State) : State :=
  s.setReg s.cfg.symAddr (s.reg s.cfg.symAddr &&& 0xFB#8)

/-- `push(v)`: SP <- SP - 1 ; x[SP] <- v (10_state R24), SP modulo 256 (20_memory R52). A push that falls
on a special location is an ordinary write there (20_memory R44, log 27). -/
def State.push (s : State) (v : Byte) : Except Fault State :=
  let s1 := s.setReg spAddr (s.sp - 1#8)
  s1.write s1.sp v

/-- `pop()`: v <- x[SP] ; SP <- SP + 1 (10_state R24), as the read number `slot`. -/
def State.pop (s : State) (slot : Nat) : Except Fault (Byte × State) := do
  let v ← s.read slot s.sp
  .ok (v, s.setReg spAddr (s.sp + 1#8))

/-! ### The two memories -/

/-- The byte a memory lists at an address. -/
def Memory.find? (m : Memory) (a : Nat) : Option Byte :=
  match m with
  | [] => Memory.unlisted
  | (b, v) :: rest => if b = a then some v else Memory.find? rest a

/-- Write a byte, keeping the addresses strictly rising. -/
def Memory.write (m : Memory) (a : Nat) (v : Byte) : Memory :=
  match m with
  | [] => [(a, v)]
  | (b, w) :: rest =>
    if a < b then (a, v) :: (b, w) :: rest
    else if a = b then (a, v) :: rest
    else (b, w) :: Memory.write rest a v

/-- Add an address to a strictly rising list of addresses. -/
def insertAddr (l : List Nat) (a : Nat) : List Nat :=
  match l with
  | [] => [a]
  | b :: rest => if a < b then a :: b :: rest else if a = b then b :: rest else b :: insertAddr rest a

/-- The byte of program memory at an address (10_state R28); outside the image a free value (log 7). -/
def State.pmByte (s : State) (a : Nat) : Byte := (Memory.find? s.pm a).getD (Config.unlistedProgram a)

/-- The byte of external data memory at an address (10_state R29); one that nothing has written since
reset is a free value (10_state R32, log 8). -/
def State.dmByte (s : State) (a : Nat) : Byte :=
  (Memory.find? s.dm a).getD (Config.unwrittenData s.epoch a)

/-- `MemRead(PM, a, 1)` after its range check (20_memory R53). -/
def State.pmLoad (s : State) (a : Addr) : Except Fault Byte :=
  if a.toNat < s.cfg.pmSize.val then .ok (s.pmByte a.toNat) else .error (.addressOutOfRange a)

/-- `MemRead(DM, a, 1)` after its range check (20_memory R53). -/
def State.dmLoad (s : State) (a : Addr) : Except Fault Byte :=
  if a.toNat < s.cfg.dmSize.val then .ok (s.dmByte a.toNat) else .error (.addressOutOfRange a)

/-- `MemWrite(PM, a, 1, v)` after its two checks, in their order (40_load R103); the address joins those
written since reset (20_memory R50). -/
def State.pmStore (s : State) (a : Addr) (v : Byte) : Except Fault State :=
  if s.cfg.pmWritable = false then .error .progMemWriteUnsupported
  else if a.toNat < s.cfg.pmSize.val then
    .ok { s with pm := Memory.write s.pm a.toNat v, pmWritten := insertAddr s.pmWritten a.toNat }
  else .error (.addressOutOfRange a)

/-- `MemWrite(DM, a, 1, v)` after its range check (40_load R105). -/
def State.dmStore (s : State) (a : Addr) (v : Byte) : Except Fault State :=
  if a.toNat < s.cfg.dmSize.val then .ok { s with dm := Memory.write s.dm a.toNat v }
  else .error (.addressOutOfRange a)

/-! ### Interrupt entry, its return, and reset -/

/-- Interrupt entry (60_exceptions R185): push PCL, PCH and FLAGS, clear SYM.2, and take the pc from the
two-byte vector, high byte first. DEDUCED by the spec from IRET; the vector is PRESUMED (log 19). -/
def takeInterrupt (s : State) : Except Fault State := do
  let s1 ← s.push (loByte s.pc)
  let s2 ← s1.push (hiByte s.pc)
  let f ← s2.read 0 flagsAddr
  let s3 ← s2.push f
  let s4 := s3.disableInterrupts
  let hi ← s4.pmLoad s4.cfg.intVector
  let lo ← s4.pmLoad (s4.cfg.intVector + 1#16)
  .ok { s4 with pc := word16 hi lo }

/-- Return from interrupt (43_program_control R142): pop FLAGS, PCH and PCL, set SYM.2. -/
def returnFromInterrupt (s : State) : Except Fault State := do
  let p1 ← s.pop 0
  let s1 ← p1.2.write flagsAddr p1.1
  let p2 ← s1.pop 1
  let p3 ← p2.2.pop 2
  let s2 := p3.2.enableInterrupts
  .ok { s2 with pc := word16 p2.1 p3.1 }

/-- Reset (70_reset_and_hazards R210): running at RESET_ADDR with SYM.2 = 0 and nothing pending, program
memory as it was, every register and all data memory unspecified, which are free values here (log 4). The
reset line is released (DESIGN CHOICE, log 4). -/
def takeReset (s : State) : State :=
  let s1 := { s with
    regs := Vector.ofFn fun i => Config.regAfterReset s.epoch i.val
    pc := s.cfg.resetAddr
    pmWritten := []
    dm := []
    runState := .running
    pending := []
    resetAsserted := false
    epoch := s.epoch + 1 }
  s1.disableInterrupts

/-- The outcome of an operation: its state, or the fault it stopped with. -/
def finish (r : Except Fault State) : Host.Outcome State Fault Refusal :=
  match r with
  | .ok s => .next s
  | .error f => .fault f

end Sys2Proof.Machine
end

