-- ==== Sys2Proof/Machine/Flags.lean ====
section
/-! DEFINITION. The flags and every flag computation of the spec (10_state R16 to R23; 41_arithmetic R120,
R124, R125; 42_logic; 44_bit_manipulation; 45_rotate_shift), and the condition codes that read them
(43_program_control R140). -/

namespace Sys2Proof.Machine

/-- The four flags (10_state R16): carry, zero, sign, overflow. -/
structure Flags where
  c : Bool
  z : Bool
  s : Bool
  v : Bool
  deriving DecidableEq, Repr

/-- The four flags in FLAGS bits 7..4 (10_state R16). -/
def State.flags (s : State) : Flags :=
  let f := s.reg flagsAddr
  ⟨f.getLsbD 7, f.getLsbD 6, f.getLsbD 5, f.getLsbD 4⟩

/-- A FLAGS byte with these flags in bits 7..4 and the low nibble of `old` (10_state R21: "a flag-writing
instruction leaves them as they were"). -/
def packFlags (f : Flags) (old : Byte) : Byte :=
  joinNib (BitVec.ofBool f.c ++ BitVec.ofBool f.z ++ BitVec.ofBool f.s ++ BitVec.ofBool f.v) (loNib old)

/-- Write the four flags; FLAGS bits 3..0 stay (10_state R21). -/
def State.setFlags (s : State) (f : Flags) : State :=
  s.setReg flagsAddr (packFlags f (s.reg flagsAddr))

/-- `setZS(r)` (41_arithmetic R120) and V, with C as given. -/
def flagsOf (c v : Bool) (r : Byte) : Flags := ⟨c, r == 0#8, r.msb, v⟩

/-- The result of `add8` or `sub8`: the byte, its carry or borrow, its signed overflow (R120). -/
structure AddResult where
  r : Byte
  carry : Bool
  ovf : Bool
  deriving DecidableEq, Repr

/-- `add8(a, b, cin)` (41_arithmetic R120): the exact sum, then the byte. -/
def add8 (a b : Byte) (cin : Bool) : AddResult :=
  let sum9 := a.toNat + b.toNat + cin.toNat
  let r := BitVec.ofNat 8 sum9
  ⟨r, decide (256 ≤ sum9), a.msb == b.msb && r.msb != a.msb⟩

/-- `sub8(a, b, bin)` (41_arithmetic R120): the exact difference, then the byte. -/
def sub8 (a b : Byte) (bin : Bool) : AddResult :=
  let diff : Int := (a.toNat : Int) - b.toNat - bin.toNat
  let r := BitVec.ofInt 8 diff
  ⟨r, decide (diff < 0), a.msb != b.msb && r.msb == b.msb⟩

/-! ### Two-operand computations: destination, source, flags before; result and flags after -/

/-- ADD (41_arithmetic R122). -/
def aluAdd (d v : Byte) (_ : Flags) : Byte × Flags :=
  let x := add8 d v false
  (x.r, flagsOf x.carry x.ovf x.r)

/-- ADC (41_arithmetic R121). -/
def aluAdc (d v : Byte) (f : Flags) : Byte × Flags :=
  let x := add8 d v f.c
  (x.r, flagsOf x.carry x.ovf x.r)

/-- SUB and CP (41_arithmetic R127, R123). -/
def aluSub (d v : Byte) (_ : Flags) : Byte × Flags :=
  let x := sub8 d v false
  (x.r, flagsOf x.carry x.ovf x.r)

/-- SBC (41_arithmetic R126): C after it is a borrow (90_conflicts C14). -/
def aluSbc (d v : Byte) (f : Flags) : Byte × Flags :=
  let x := sub8 d v f.c
  (x.r, flagsOf x.carry x.ovf x.r)

/-- AND and TM (42_logic R130, 44_bit_manipulation R151). -/
def aluAnd (d v : Byte) (f : Flags) : Byte × Flags := (d &&& v, flagsOf f.c false (d &&& v))

/-- OR (42_logic R132). -/
def aluOr (d v : Byte) (f : Flags) : Byte × Flags := (d ||| v, flagsOf f.c false (d ||| v))

/-- XOR (42_logic R133). -/
def aluXor (d v : Byte) (f : Flags) : Byte × Flags := (d ^^^ v, flagsOf f.c false (d ^^^ v))

/-- TCM (44_bit_manipulation R150): (NOT dst) AND src. -/
def aluTcm (d v : Byte) (f : Flags) : Byte × Flags := (~~~d &&& v, flagsOf f.c false (~~~d &&& v))

/-! ### One-operand computations -/

/-- INC (41_arithmetic R125): V when the destination was 7FH, C unaffected. -/
def aluInc (d : Byte) (f : Flags) : Byte × Flags := (d + 1#8, flagsOf f.c (d == 0x7F#8) (d + 1#8))

/-- DEC (41_arithmetic R124): V when the destination was 80H, C unaffected. -/
def aluDec (d : Byte) (f : Flags) : Byte × Flags := (d - 1#8, flagsOf f.c (d == 0x80#8) (d - 1#8))

/-- COM (42_logic R131). -/
def aluCom (d : Byte) (f : Flags) : Byte × Flags := (~~~d, flagsOf f.c false (~~~d))

/-- The result and flags of a rotate: C is the bit that left the byte, V says the sign changed
(45_rotate_shift R155 to R158). -/
def rotated (d r : Byte) (out : Bool) : Byte × Flags := (r, flagsOf out (r.msb != d.msb) r)

/-- The 8-bit value of a bit in position 0. -/
def bit0 (b : Bool) : Byte := (BitVec.ofBool b).zeroExtend 8

/-- RL (45_rotate_shift R155). -/
def aluRl (d : Byte) (_ : Flags) : Byte × Flags :=
  rotated d ((d <<< 1) ||| bit0 (d.getLsbD 7)) (d.getLsbD 7)

/-- RLC (45_rotate_shift R156): the old C enters bit 0. -/
def aluRlc (d : Byte) (f : Flags) : Byte × Flags :=
  rotated d ((d <<< 1) ||| bit0 f.c) (d.getLsbD 7)

/-- RR (45_rotate_shift R157). -/
def aluRr (d : Byte) (_ : Flags) : Byte × Flags :=
  rotated d ((d >>> 1) ||| (bit0 (d.getLsbD 0) <<< 7)) (d.getLsbD 0)

/-- RRC (45_rotate_shift R158): the old C enters bit 7. -/
def aluRrc (d : Byte) (f : Flags) : Byte × Flags :=
  rotated d ((d >>> 1) ||| (bit0 f.c <<< 7)) (d.getLsbD 0)

/-- SRA (45_rotate_shift R159): bit 7 stays, V is cleared. -/
def aluSra (d : Byte) (_ : Flags) : Byte × Flags :=
  let r := (d >>> 1) ||| (d &&& 0x80#8)
  (r, flagsOf (d.getLsbD 0) false r)

/-! ### Condition codes -/

/-- `cond(cc)` on the flags (43_program_control R140, Table 6-6). -/
def cond (cc : Cond) (f : Flags) : Bool :=
  match cc with
  | .f => false
  | .lt => f.s ^^ f.v
  | .le => f.z || (f.s ^^ f.v)
  | .ule => f.c || f.z
  | .ov => f.v
  | .mi => f.s
  | .z => f.z
  | .c => f.c
  | .t => true
  | .ge => !(f.s ^^ f.v)
  | .gt => !(f.z || (f.s ^^ f.v))
  | .ugt => !f.c && !f.z
  | .nov => !f.v
  | .pl => !f.s
  | .nz => !f.z
  | .nc => !f.c

end Sys2Proof.Machine
end

