-- ==== Sys2Proof/Machine/Operands.lean ====
section
/-! DEFINITION. Every operand form of the spec (30_encoding R62 to R68, R75, R76) and the shapes of
instruction built on them: the two-operand and one-operand form sets, loads, stores to the memories, and
the transfers of control. Reads are numbered within a step (slot 0 a pointer, index or the high byte of a
pair, 1 the source or the low byte of a pair, 2 the destination): the number matters only to a free value
(log 5, log 6). -/

namespace Sys2Proof.Machine

/-! ### Operands -/

/-- Source of kind r or R: the byte at a register-file location (R62, R63). -/
def State.srcReg (s : State) (a : Byte) : Except Fault Byte := s.read 1 a

/-- Location of kind Ir or IR: the content of the register that points to it (R62, R63). -/
def State.through (s : State) (a : Byte) : Except Fault Byte := s.read 0 a

/-- Source of kind Ir or IR (R62, R63). -/
def State.srcThrough (s : State) (a : Byte) : Except Fault Byte := do
  let p ← s.through a
  s.read 1 p

/-- Location of kind X: the offset plus the content of the index register, modulo 256 (R65). -/
def State.indexed (s : State) (x : Byte) (idx : WReg) : Except Fault Byte := do
  let i ← s.read 0 (s.wr idx)
  .ok (x + i)

/-- Source of kind X (R65). -/
def State.srcIndexed (s : State) (x : Byte) (idx : WReg) : Except Fault Byte := do
  let a ← s.indexed x idx
  s.read 1 a

/-- The address of kind Irr: the working register pair (R64). -/
def State.addrIrr (s : State) (p : Pair) : Except Fault Addr := s.readPair 0 (s.pairAddr p)

/-- The address of kind XS: the pair plus a sign-extended byte, modulo 2^16 (R65). -/
def State.addrXs (s : State) (xs : Byte) (p : Pair) : Except Fault Addr := do
  let a ← s.addrIrr p
  .ok (a + xs.signExtend 16)

/-- The address of kind XL: the pair plus a 16-bit offset, modulo 2^16 (R65). -/
def State.addrXl (s : State) (xl : Addr) (p : Pair) : Except Fault Addr := do
  let a ← s.addrIrr p
  .ok (a + xl)

/-- The target of kind IRR: the register pair at an even address; an odd one stops (R64, log 15). -/
def State.addrIpair (s : State) (a : Byte) : Except Fault Addr :=
  if a.getLsbD 0 then .error (.oddRegisterPair a) else s.readPair 0 a

/-! ### Arithmetic, logic, tests -/

/-- A flag writer must not have FLAGS as its destination (10_state R22, log 16). -/
def guardFlags (a : Byte) : Except Fault Unit :=
  if a = flagsAddr then .error .unpredictable else .ok ()

/-- A two-operand instruction that writes its destination at `dst` (R75): the source is read before the
destination is written. -/
def binop (f : Byte → Byte → Flags → Byte × Flags) (len : Nat) (dst : Byte) (src : Except Fault Byte)
    (s : State) : Except Fault State := do
  guardFlags dst
  let v ← src
  let d ← s.read 2 dst
  let s1 ← s.write dst (f d v s.flags).1
  .ok ((s1.setFlags (f d v s.flags).2).advance len)

/-- A two-operand instruction that only sets the flags: CP, TCM, TM (R75; 10_state R22 exempts them). -/
def testop (f : Byte → Byte → Flags → Byte × Flags) (len : Nat) (dst : Byte) (src : Except Fault Byte)
    (s : State) : Except Fault State := do
  let v ← src
  let d ← s.read 2 dst
  .ok ((s.setFlags (f d v s.flags).2).advance len)

/-- A one-operand instruction that writes its operand at `dst` (R76). -/
def unop (f : Byte → Flags → Byte × Flags) (len : Nat) (dst : Byte) (s : State) : Except Fault State := do
  guardFlags dst
  let d ← s.read 2 dst
  let s1 ← s.write dst (f d s.flags).1
  .ok ((s1.setFlags (f d s.flags).2).advance len)

/-- `unop` on the location that a register points to (R76, kind IR). -/
def unopThrough (f : Byte → Flags → Byte × Flags) (len : Nat) (a : Byte) (s : State) :
    Except Fault State := do
  let dst ← s.through a
  unop f len dst s

/-! ### Loads and stores -/

/-- Write a byte to a register-file location and go on (40_load R101). -/
def loadReg (len : Nat) (dst : Byte) (src : Except Fault Byte) (s : State) : Except Fault State := do
  let v ← src
  let s1 ← s.write dst v
  .ok (s1.advance len)

/-- `loadReg` to a location given by a pointer or an index, which is read first (40_load R101). -/
def loadAt (len : Nat) (loc src : Except Fault Byte) (s : State) : Except Fault State := do
  let dst ← loc
  loadReg len dst src s

/-- LDC load: a byte of program memory to a working register (40_load R102). -/
def loadProgram (len : Nat) (dst : WReg) (addr : Except Fault Addr) (s : State) : Except Fault State := do
  let a ← addr
  loadReg len (s.wr dst) (s.pmLoad a) s

/-- LDE load: a byte of external data memory to a working register (40_load R104). -/
def loadData (len : Nat) (dst : WReg) (addr : Except Fault Addr) (s : State) : Except Fault State := do
  let a ← addr
  loadReg len (s.wr dst) (s.dmLoad a) s

/-- LDC store: a working register to program memory (40_load R103). -/
def storeProgram (len : Nat) (addr : Except Fault Addr) (src : WReg) (s : State) : Except Fault State := do
  let a ← addr
  let v ← s.read 2 (s.wr src)
  let s1 ← s.pmStore a v
  .ok (s1.advance len)

/-- LDE store: a working register to external data memory (40_load R105). -/
def storeData (len : Nat) (addr : Except Fault Addr) (src : WReg) (s : State) : Except Fault State := do
  let a ← addr
  let v ← s.read 2 (s.wr src)
  let s1 ← s.dmStore a v
  .ok (s1.advance len)

/-- LDCD, LDED, LDCI, LDEI: load, then the pair moves by `delta` (40_load R106 to R109). A destination in
its own pair stops (log 17). -/
def loadStep (load : State → Addr → Except Fault Byte) (delta : Addr) (dst : WReg) (p : Pair) (s : State) :
    Except Fault State :=
  if s.wr dst = s.pairAddr p ∨ s.wr dst = s.pairAddr p + 1#8 then .error .unpredictable
  else do
    let a ← s.addrIrr p
    let v ← load s a
    let s1 ← s.write (s.wr dst) v
    let s2 ← s1.writePair (s.pairAddr p) (a + delta)
    .ok (s2.advance 2)

/-- POP to a location (40_load R110); SP itself stops (log 17). -/
def popTo (dst : Byte) (s : State) : Except Fault State :=
  if dst = spAddr then .error .unpredictable
  else do
    let v ← s.read 1 s.sp
    let s1 ← s.write dst v
    .ok ((s1.setReg spAddr (s1.sp + 1#8)).advance 2)

/-- PUSH of a location (40_load R111); SP itself stops (log 17). -/
def pushFrom (src : Byte) (s : State) : Except Fault State :=
  if src = spAddr then .error .unpredictable
  else do
    let v ← s.read 1 src
    let s1 ← s.push v
    .ok (s1.advance 2)

/-! ### Transfers of control -/

/-- Push the return address, PCL first, and go to the target (43_program_control R141). -/
def callTo (len : Nat) (target : Addr) (s : State) : Except Fault State := do
  let s1 ← s.push (loByte (s.npc len))
  let s2 ← s1.push (hiByte (s.npc len))
  .ok { s2 with pc := target }

/-- Whether the pair at `a` meets SP or one of the two bytes a call is about to push (R141, log 17). -/
def State.pairMeetsStack (s : State) (a : Byte) : Bool :=
  [a, a + 1#8].any fun x => [spAddr, s.sp - 1#8, s.sp - 2#8].contains x

/-- CALL through a register pair (43_program_control R141). -/
def callThrough (a : Byte) (s : State) : Except Fault State :=
  if a.getLsbD 0 then .error (.oddRegisterPair a)
  else if s.pairMeetsStack a then .error .unpredictable
  else do
    let target ← s.readPair 0 a
    callTo 2 target s

/-- Go to the target (43_program_control R144). -/
def jumpTo (target : Except Fault Addr) (s : State) : Except Fault State := do
  let t ← target
  .ok { s with pc := t }

/-- Go to the target if the condition holds, else past the instruction (R143, R145). -/
def jumpIf (cc : Cond) (len : Nat) (target : Addr) (s : State) : State :=
  if cond cc s.flags then { s with pc := target } else s.advance len

/-- RET: pop PCH, then PCL (43_program_control R146). -/
def returnFromCall (s : State) : Except Fault State := do
  let p1 ← s.pop 0
  let p2 ← p1.2.pop 1
  .ok { p2.2 with pc := word16 p1.1 p2.1 }

end Sys2Proof.Machine
end

