-- ==== Sys2Proof/Machine/Arithmetic.lean ====
section
/-! DEFINITION. The meanings of the arithmetic instructions ADC, ADD, CP, DEC, INC, SBC, SUB (41_arithmetic). -/

namespace Sys2Proof.Machine

/-- ADD r,r, opcode 02 (R122, R75). -/
def execAdd_r_r (dst src : WReg) (s : State) : Host.Outcome State Fault Refusal :=
  finish (binop aluAdd 2 (s.wr dst) (s.srcReg (s.wr src)) s)

/-- ADD r,Ir, opcode 03 (R122, R75). -/
def execAdd_r_ir (dst src : WReg) (s : State) : Host.Outcome State Fault Refusal :=
  finish (binop aluAdd 2 (s.wr dst) (s.srcThrough (s.wr src)) s)

/-- ADD R,R, opcode 04 (R122, R75). -/
def execAdd_reg_reg (dst src : Byte) (s : State) : Host.Outcome State Fault Refusal :=
  finish (binop aluAdd 3 dst (s.srcReg src) s)

/-- ADD R,IR, opcode 05 (R122, R75). -/
def execAdd_reg_ireg (dst src : Byte) (s : State) : Host.Outcome State Fault Refusal :=
  finish (binop aluAdd 3 dst (s.srcThrough src) s)

/-- ADD R,IM, opcode 06 (R122, R75). -/
def execAdd_reg_im (dst im : Byte) (s : State) : Host.Outcome State Fault Refusal :=
  finish (binop aluAdd 3 dst (.ok im) s)

/-- ADC r,r, opcode 12 (R121, R75). -/
def execAdc_r_r (dst src : WReg) (s : State) : Host.Outcome State Fault Refusal :=
  finish (binop aluAdc 2 (s.wr dst) (s.srcReg (s.wr src)) s)

/-- ADC r,Ir, opcode 13 (R121, R75). -/
def execAdc_r_ir (dst src : WReg) (s : State) : Host.Outcome State Fault Refusal :=
  finish (binop aluAdc 2 (s.wr dst) (s.srcThrough (s.wr src)) s)

/-- ADC R,R, opcode 14 (R121, R75). -/
def execAdc_reg_reg (dst src : Byte) (s : State) : Host.Outcome State Fault Refusal :=
  finish (binop aluAdc 3 dst (s.srcReg src) s)

/-- ADC R,IR, opcode 15 (R121, R75). -/
def execAdc_reg_ireg (dst src : Byte) (s : State) : Host.Outcome State Fault Refusal :=
  finish (binop aluAdc 3 dst (s.srcThrough src) s)

/-- ADC R,IM, opcode 16 (R121, R75). -/
def execAdc_reg_im (dst im : Byte) (s : State) : Host.Outcome State Fault Refusal :=
  finish (binop aluAdc 3 dst (.ok im) s)

/-- SUB r,r, opcode 22 (R127, R75). -/
def execSub_r_r (dst src : WReg) (s : State) : Host.Outcome State Fault Refusal :=
  finish (binop aluSub 2 (s.wr dst) (s.srcReg (s.wr src)) s)

/-- SUB r,Ir, opcode 23 (R127, R75). -/
def execSub_r_ir (dst src : WReg) (s : State) : Host.Outcome State Fault Refusal :=
  finish (binop aluSub 2 (s.wr dst) (s.srcThrough (s.wr src)) s)

/-- SUB R,R, opcode 24 (R127, R75). -/
def execSub_reg_reg (dst src : Byte) (s : State) : Host.Outcome State Fault Refusal :=
  finish (binop aluSub 3 dst (s.srcReg src) s)

/-- SUB R,IR, opcode 25 (R127, R75). -/
def execSub_reg_ireg (dst src : Byte) (s : State) : Host.Outcome State Fault Refusal :=
  finish (binop aluSub 3 dst (s.srcThrough src) s)

/-- SUB R,IM, opcode 26 (R127, R75). -/
def execSub_reg_im (dst im : Byte) (s : State) : Host.Outcome State Fault Refusal :=
  finish (binop aluSub 3 dst (.ok im) s)

/-- SBC r,r, opcode 32 (R126, R75). -/
def execSbc_r_r (dst src : WReg) (s : State) : Host.Outcome State Fault Refusal :=
  finish (binop aluSbc 2 (s.wr dst) (s.srcReg (s.wr src)) s)

/-- SBC r,Ir, opcode 33 (R126, R75). -/
def execSbc_r_ir (dst src : WReg) (s : State) : Host.Outcome State Fault Refusal :=
  finish (binop aluSbc 2 (s.wr dst) (s.srcThrough (s.wr src)) s)

/-- SBC R,R, opcode 34 (R126, R75). -/
def execSbc_reg_reg (dst src : Byte) (s : State) : Host.Outcome State Fault Refusal :=
  finish (binop aluSbc 3 dst (s.srcReg src) s)

/-- SBC R,IR, opcode 35 (R126, R75). -/
def execSbc_reg_ireg (dst src : Byte) (s : State) : Host.Outcome State Fault Refusal :=
  finish (binop aluSbc 3 dst (s.srcThrough src) s)

/-- SBC R,IM, opcode 36 (R126, R75). -/
def execSbc_reg_im (dst im : Byte) (s : State) : Host.Outcome State Fault Refusal :=
  finish (binop aluSbc 3 dst (.ok im) s)

/-- CP r,r, opcode A2 (R123, R75). -/
def execCp_r_r (dst src : WReg) (s : State) : Host.Outcome State Fault Refusal :=
  finish (testop aluSub 2 (s.wr dst) (s.srcReg (s.wr src)) s)

/-- CP r,Ir, opcode A3 (R123, R75). -/
def execCp_r_ir (dst src : WReg) (s : State) : Host.Outcome State Fault Refusal :=
  finish (testop aluSub 2 (s.wr dst) (s.srcThrough (s.wr src)) s)

/-- CP R,R, opcode A4 (R123, R75). -/
def execCp_reg_reg (dst src : Byte) (s : State) : Host.Outcome State Fault Refusal :=
  finish (testop aluSub 3 dst (s.srcReg src) s)

/-- CP R,IR, opcode A5 (R123, R75). -/
def execCp_reg_ireg (dst src : Byte) (s : State) : Host.Outcome State Fault Refusal :=
  finish (testop aluSub 3 dst (s.srcThrough src) s)

/-- CP R,IM, opcode A6 (R123, R75). -/
def execCp_reg_im (dst im : Byte) (s : State) : Host.Outcome State Fault Refusal :=
  finish (testop aluSub 3 dst (.ok im) s)

/-- DEC R, opcode 00 (R124, R76). -/
def execDec_reg (dst : Byte) (s : State) : Host.Outcome State Fault Refusal :=
  finish (unop aluDec 2 dst s)

/-- DEC IR, opcode 01 (R124, R76). -/
def execDec_ireg (dst : Byte) (s : State) : Host.Outcome State Fault Refusal :=
  finish (unopThrough aluDec 2 dst s)

/-- INC R, opcode 20 (R125, R76). -/
def execInc_reg (dst : Byte) (s : State) : Host.Outcome State Fault Refusal :=
  finish (unop aluInc 2 dst s)

/-- INC IR, opcode 21 (R125, R76). -/
def execInc_ireg (dst : Byte) (s : State) : Host.Outcome State Fault Refusal :=
  finish (unopThrough aluInc 2 dst s)

/-- INC r, opcode rE (R125; PRESUMED, log 12). -/
def execInc_r (dst : WReg) (s : State) : Host.Outcome State Fault Refusal :=
  finish (unop aluInc 1 (s.wr dst) s)

end Sys2Proof.Machine
end

