-- ==== Sys2Proof/Machine/BitManipulation.lean ====
section
/-! DEFINITION. The meanings of the bit manipulation instructions TCM and TM (44_bit_manipulation): neither operand is written. -/

namespace Sys2Proof.Machine

/-- TCM r,r, opcode 62 (R150, R75). -/
def execTcm_r_r (dst src : WReg) (s : State) : Host.Outcome State Fault Refusal :=
  finish (testop aluTcm 2 (s.wr dst) (s.srcReg (s.wr src)) s)

/-- TCM r,Ir, opcode 63 (R150, R75). -/
def execTcm_r_ir (dst src : WReg) (s : State) : Host.Outcome State Fault Refusal :=
  finish (testop aluTcm 2 (s.wr dst) (s.srcThrough (s.wr src)) s)

/-- TCM R,R, opcode 64 (R150, R75). -/
def execTcm_reg_reg (dst src : Byte) (s : State) : Host.Outcome State Fault Refusal :=
  finish (testop aluTcm 3 dst (s.srcReg src) s)

/-- TCM R,IR, opcode 65 (R150, R75). -/
def execTcm_reg_ireg (dst src : Byte) (s : State) : Host.Outcome State Fault Refusal :=
  finish (testop aluTcm 3 dst (s.srcThrough src) s)

/-- TCM R,IM, opcode 66 (R150, R75). -/
def execTcm_reg_im (dst im : Byte) (s : State) : Host.Outcome State Fault Refusal :=
  finish (testop aluTcm 3 dst (.ok im) s)

/-- TM r,r, opcode 72 (R151, R75). -/
def execTm_r_r (dst src : WReg) (s : State) : Host.Outcome State Fault Refusal :=
  finish (testop aluAnd 2 (s.wr dst) (s.srcReg (s.wr src)) s)

/-- TM r,Ir, opcode 73 (R151, R75). -/
def execTm_r_ir (dst src : WReg) (s : State) : Host.Outcome State Fault Refusal :=
  finish (testop aluAnd 2 (s.wr dst) (s.srcThrough (s.wr src)) s)

/-- TM R,R, opcode 74 (R151, R75). -/
def execTm_reg_reg (dst src : Byte) (s : State) : Host.Outcome State Fault Refusal :=
  finish (testop aluAnd 3 dst (s.srcReg src) s)

/-- TM R,IR, opcode 75 (R151, R75). -/
def execTm_reg_ireg (dst src : Byte) (s : State) : Host.Outcome State Fault Refusal :=
  finish (testop aluAnd 3 dst (s.srcThrough src) s)

/-- TM R,IM, opcode 76 (R151, R75). -/
def execTm_reg_im (dst im : Byte) (s : State) : Host.Outcome State Fault Refusal :=
  finish (testop aluAnd 3 dst (.ok im) s)

end Sys2Proof.Machine
end

