-- ==== Sys2Proof/Machine/CpuControl.lean ====
section
/-! DEFINITION. The meanings of the CPU control instructions CCF, DI, EI, IDLE, NOP, RCF, SCF, STOP (46_cpu_control). -/

namespace Sys2Proof.Machine

/-- CCF, opcode EF (R165): C is complemented, no other flag changes. -/
def execCcf (s : State) : Host.Outcome State Fault Refusal :=
  .next ((s.setFlags { s.flags with c := !s.flags.c }).advance 1)

/-- RCF, opcode CF (R170; the opcode PRESUMED, log 12): C is cleared. -/
def execRcf (s : State) : Host.Outcome State Fault Refusal :=
  .next ((s.setFlags { s.flags with c := false }).advance 1)

/-- SCF, opcode DF (R171): C is set. -/
def execScf (s : State) : Host.Outcome State Fault Refusal :=
  .next ((s.setFlags { s.flags with c := true }).advance 1)

/-- DI, opcode 8F (R166): SYM.2 <- 0. -/
def execDi (s : State) : Host.Outcome State Fault Refusal :=
  .next (s.disableInterrupts.advance 1)

/-- EI, opcode 9F (R167): SYM.2 <- 1. -/
def execEi (s : State) : Host.Outcome State Fault Refusal :=
  .next (s.enableInterrupts.advance 1)

/-- IDLE, opcode 6F (R168). -/
def execIdle (s : State) : Host.Outcome State Fault Refusal :=
  .next { s.advance 1 with runState := .idle }

/-- NOP, opcode FF (R169; the opcode PRESUMED, log 12). -/
def execNop (s : State) : Host.Outcome State Fault Refusal :=
  .next (s.advance 1)

/-- STOP, opcode 7F (R172; the opcode PRESUMED, log 12): Stop mode when STOPCON holds its key; without it
"PC is changed to reset address" and nothing else changes (R181, log 22). It stops while STOPCON_ADDR is not
configured. -/
def execStop (s : State) : Host.Outcome State Fault Refusal :=
  match s.cfg.stopconAddr with
  | none => .fault .parameterOpen
  | some a =>
    if s.reg a = stopKey then .next { s.advance 1 with runState := .stop }
    else .next { s with pc := s.cfg.resetAddr }

end Sys2Proof.Machine
end

