-- ==== Sys2Proof/Machine/Load.lean ====
section
/-! DEFINITION. The meanings of the load instructions CLR, LD, LDC, LDE, LDCD, LDED, LDCI, LDEI, POP, PUSH (40_load). None writes a
flag of its own; each goes on at the byte after it. -/

namespace Sys2Proof.Machine

/-- CLR R, opcode B0 (R100): writes no flag of its own. -/
def execClr_reg (dst : Byte) (s : State) : Host.Outcome State Fault Refusal :=
  finish (loadReg 2 dst (.ok 0#8) s)

/-- CLR IR, opcode B1 (R100). -/
def execClr_ireg (dst : Byte) (s : State) : Host.Outcome State Fault Refusal :=
  finish (loadAt 2 (s.through dst) (.ok 0#8) s)

/-- LD r,IM, opcode rC (R101; PRESUMED, log 12). -/
def execLd_r_im (dst : WReg) (im : Byte) (s : State) : Host.Outcome State Fault Refusal :=
  finish (loadReg 2 (s.wr dst) (.ok im) s)

/-- LD r,R, opcode r8 (R101; PRESUMED, log 12). -/
def execLd_r_reg (dst : WReg) (src : Byte) (s : State) : Host.Outcome State Fault Refusal :=
  finish (loadReg 2 (s.wr dst) (s.srcReg src) s)

/-- LD R,r, opcode r9 (R101; PRESUMED, log 12). -/
def execLd_reg_r (dst : Byte) (src : WReg) (s : State) : Host.Outcome State Fault Refusal :=
  finish (loadReg 2 dst (s.srcReg (s.wr src)) s)

/-- LD r,Ir, opcode C7 (R101). -/
def execLd_r_ir (dst src : WReg) (s : State) : Host.Outcome State Fault Refusal :=
  finish (loadReg 2 (s.wr dst) (s.srcThrough (s.wr src)) s)

/-- LD Ir,r, opcode D7 (R101). -/
def execLd_ir_r (dst src : WReg) (s : State) : Host.Outcome State Fault Refusal :=
  finish (loadAt 2 (s.through (s.wr dst)) (s.srcReg (s.wr src)) s)

/-- LD R,R, opcode E4 (R101). -/
def execLd_reg_reg (dst src : Byte) (s : State) : Host.Outcome State Fault Refusal :=
  finish (loadReg 3 dst (s.srcReg src) s)

/-- LD R,IR, opcode E5 (R101; 90_conflicts C15; the direction is PRESUMED, log 11: UNSAFE). -/
def execLd_reg_ireg (dst src : Byte) (s : State) : Host.Outcome State Fault Refusal :=
  finish (loadReg 3 dst (s.srcThrough src) s)

/-- LD R,IM, opcode E6 (R101). -/
def execLd_reg_im (dst im : Byte) (s : State) : Host.Outcome State Fault Refusal :=
  finish (loadReg 3 dst (.ok im) s)

/-- LD IR,IM, opcode D6 (R101). -/
def execLd_ireg_im (dst im : Byte) (s : State) : Host.Outcome State Fault Refusal :=
  finish (loadAt 3 (s.through dst) (.ok im) s)

/-- LD IR,R, opcode F5 (R101; 90_conflicts C15; the direction is PRESUMED, log 11: UNSAFE). -/
def execLd_ireg_reg (dst src : Byte) (s : State) : Host.Outcome State Fault Refusal :=
  finish (loadAt 3 (s.through dst) (s.srcReg src) s)

/-- LD r,x[r], opcode 87 (R101, R65). -/
def execLd_r_x (dst : WReg) (x : Byte) (idx : WReg) (s : State) : Host.Outcome State Fault Refusal :=
  finish (loadReg 3 (s.wr dst) (s.srcIndexed x idx) s)

/-- LD x[r],r, opcode 97 (R101, R65). -/
def execLd_x_r (x : Byte) (idx src : WReg) (s : State) : Host.Outcome State Fault Refusal :=
  finish (loadAt 3 (s.indexed x idx) (s.srcReg (s.wr src)) s)

/-- LDC r,Irr, opcode C3, program memory (R102, R68). -/
def execLdc_r_irr (dst : WReg) (pair : Pair) (s : State) : Host.Outcome State Fault Refusal :=
  finish (loadProgram 2 dst (s.addrIrr pair) s)

/-- LDE r,Irr, opcode C3, external data memory (R104, R68). -/
def execLde_r_irr (dst : WReg) (pair : Pair) (s : State) : Host.Outcome State Fault Refusal :=
  finish (loadData 2 dst (s.addrIrr pair) s)

/-- LDC Irr,r, opcode D3, program memory (R103, R50, R68; log 18). -/
def execLdc_irr_r (pair : Pair) (src : WReg) (s : State) : Host.Outcome State Fault Refusal :=
  finish (storeProgram 2 (s.addrIrr pair) src s)

/-- LDE Irr,r, opcode D3, external data memory (R105, R68). -/
def execLde_irr_r (pair : Pair) (src : WReg) (s : State) : Host.Outcome State Fault Refusal :=
  finish (storeData 2 (s.addrIrr pair) src s)

/-- LDC r,XS[rr], opcode E7, program memory (R102, R68). -/
def execLdc_r_xs (dst : WReg) (xs : Byte) (pair : Pair) (s : State) :
    Host.Outcome State Fault Refusal :=
  finish (loadProgram 3 dst (s.addrXs xs pair) s)

/-- LDE r,XS[rr], opcode E7, external data memory (R104, R68). -/
def execLde_r_xs (dst : WReg) (xs : Byte) (pair : Pair) (s : State) :
    Host.Outcome State Fault Refusal :=
  finish (loadData 3 dst (s.addrXs xs pair) s)

/-- LDC XS[rr],r, opcode F7, program memory (R103, R50, R68; log 18). -/
def execLdc_xs_r (xs : Byte) (pair : Pair) (src : WReg) (s : State) :
    Host.Outcome State Fault Refusal :=
  finish (storeProgram 3 (s.addrXs xs pair) src s)

/-- LDE XS[rr],r, opcode F7, external data memory (R105, R68). -/
def execLde_xs_r (xs : Byte) (pair : Pair) (src : WReg) (s : State) :
    Host.Outcome State Fault Refusal :=
  finish (storeData 3 (s.addrXs xs pair) src s)

/-- LDC r,DA, opcode A7, program memory (R102, R68). -/
def execLdc_r_da (dst : WReg) (addr : Addr) (s : State) : Host.Outcome State Fault Refusal :=
  finish (loadProgram 4 dst (.ok addr) s)

/-- LDE r,DA, opcode A7, external data memory (R104, R68). -/
def execLde_r_da (dst : WReg) (addr : Addr) (s : State) : Host.Outcome State Fault Refusal :=
  finish (loadData 4 dst (.ok addr) s)

/-- LDC DA,r, opcode B7, program memory (R103, R50, R68; log 18). -/
def execLdc_da_r (addr : Addr) (src : WReg) (s : State) : Host.Outcome State Fault Refusal :=
  finish (storeProgram 4 (.ok addr) src s)

/-- LDE DA,r, opcode B7, external data memory (R105, R68). -/
def execLde_da_r (addr : Addr) (src : WReg) (s : State) : Host.Outcome State Fault Refusal :=
  finish (storeData 4 (.ok addr) src s)

/-- LDC r,XL[rr], opcode A7, program memory (R102, R68). -/
def execLdc_r_xl (dst : WReg) (xl : Addr) (pair : Pair) (s : State) :
    Host.Outcome State Fault Refusal :=
  finish (loadProgram 4 dst (s.addrXl xl pair) s)

/-- LDE r,XL[rr], opcode A7, external data memory (R104, R68). -/
def execLde_r_xl (dst : WReg) (xl : Addr) (pair : Pair) (s : State) :
    Host.Outcome State Fault Refusal :=
  finish (loadData 4 dst (s.addrXl xl pair) s)

/-- LDC XL[rr],r, opcode B7, program memory (R103, R50, R68; log 18). -/
def execLdc_xl_r (xl : Addr) (pair : Pair) (src : WReg) (s : State) :
    Host.Outcome State Fault Refusal :=
  finish (storeProgram 4 (s.addrXl xl pair) src s)

/-- LDE XL[rr],r, opcode B7, external data memory (R105, R68). -/
def execLde_xl_r (xl : Addr) (pair : Pair) (src : WReg) (s : State) :
    Host.Outcome State Fault Refusal :=
  finish (storeData 4 (s.addrXl xl pair) src s)

/-- LDCD r,Irr, opcode E2 (R106): the pair goes down by one. -/
def execLdcd_r_irr (dst : WReg) (pair : Pair) (s : State) : Host.Outcome State Fault Refusal :=
  finish (loadStep State.pmLoad 0xFFFF#16 dst pair s)

/-- LDED r,Irr, opcode E2 (R107): the pair goes down by one. -/
def execLded_r_irr (dst : WReg) (pair : Pair) (s : State) : Host.Outcome State Fault Refusal :=
  finish (loadStep State.dmLoad 0xFFFF#16 dst pair s)

/-- LDCI r,Irr, opcode E3 (R108): the pair goes up by one. -/
def execLdci_r_irr (dst : WReg) (pair : Pair) (s : State) : Host.Outcome State Fault Refusal :=
  finish (loadStep State.pmLoad 1#16 dst pair s)

/-- LDEI r,Irr, opcode E3 (R109): the pair goes up by one. -/
def execLdei_r_irr (dst : WReg) (pair : Pair) (s : State) : Host.Outcome State Fault Refusal :=
  finish (loadStep State.dmLoad 1#16 dst pair s)

/-- POP R, opcode 50 (R110). -/
def execPop_reg (dst : Byte) (s : State) : Host.Outcome State Fault Refusal :=
  finish (popTo dst s)

/-- POP IR, opcode 51 (R110): the pointer is read before the pop. -/
def execPop_ireg (dst : Byte) (s : State) : Host.Outcome State Fault Refusal :=
  finish (do popTo (← s.through dst) s)

/-- PUSH R, opcode 70 (R111). -/
def execPush_reg (src : Byte) (s : State) : Host.Outcome State Fault Refusal :=
  finish (pushFrom src s)

/-- PUSH IR, opcode 71 (R111). -/
def execPush_ireg (src : Byte) (s : State) : Host.Outcome State Fault Refusal :=
  finish (do pushFrom (← s.through src) s)

end Sys2Proof.Machine
end

