-- ==== Sys2Proof/Machine/Logic.lean ====
section
/-! DEFINITION. The meanings of the logic instructions AND, COM, OR, XOR (42_logic). -/

namespace Sys2Proof.Machine

/-- OR r,r, opcode 42 (R132, R75). -/
def execOr_r_r (dst src : WReg) (s : State) : Host.Outcome State Fault Refusal :=
  finish (binop aluOr 2 (s.wr dst) (s.srcReg (s.wr src)) s)

/-- OR r,Ir, opcode 43 (R132, R75). -/
def execOr_r_ir (dst src : WReg) (s : State) : Host.Outcome State Fault Refusal :=
  finish (binop aluOr 2 (s.wr dst) (s.srcThrough (s.wr src)) s)

/-- OR R,R, opcode 44 (R132, R75). -/
def execOr_reg_reg (dst src : Byte) (s : State) : Host.Outcome State Fault Refusal :=
  finish (binop aluOr 3 dst (s.srcReg src) s)

/-- OR R,IR, opcode 45 (R132, R75). -/
def execOr_reg_ireg (dst src : Byte) (s : State) : Host.Outcome State Fault Refusal :=
  finish (binop aluOr 3 dst (s.srcThrough src) s)

/-- OR R,IM, opcode 46 (R132, R75). -/
def execOr_reg_im (dst im : Byte) (s : State) : Host.Outcome State Fault Refusal :=
  finish (binop aluOr 3 dst (.ok im) s)

/-- AND r,r, opcode 52 (R130, R75). -/
def execAnd_r_r (dst src : WReg) (s : State) : Host.Outcome State Fault Refusal :=
  finish (binop aluAnd 2 (s.wr dst) (s.srcReg (s.wr src)) s)

/-- AND r,Ir, opcode 53 (R130, R75). -/
def execAnd_r_ir (dst src : WReg) (s : State) : Host.Outcome State Fault Refusal :=
  finish (binop aluAnd 2 (s.wr dst) (s.srcThrough (s.wr src)) s)

/-- AND R,R, opcode 54 (R130, R75). -/
def execAnd_reg_reg (dst src : Byte) (s : State) : Host.Outcome State Fault Refusal :=
  finish (binop aluAnd 3 dst (s.srcReg src) s)

/-- AND R,IR, opcode 55 (R130, R75). -/
def execAnd_reg_ireg (dst src : Byte) (s : State) : Host.Outcome State Fault Refusal :=
  finish (binop aluAnd 3 dst (s.srcThrough src) s)

/-- AND R,IM, opcode 56 (R130, R75). -/
def execAnd_reg_im (dst im : Byte) (s : State) : Host.Outcome State Fault Refusal :=
  finish (binop aluAnd 3 dst (.ok im) s)

/-- XOR r,r, opcode B2 (R133, R75). -/
def execXor_r_r (dst src : WReg) (s : State) : Host.Outcome State Fault Refusal :=
  finish (binop aluXor 2 (s.wr dst) (s.srcReg (s.wr src)) s)

/-- XOR r,Ir, opcode B3 (R133, R75). -/
def execXor_r_ir (dst src : WReg) (s : State) : Host.Outcome State Fault Refusal :=
  finish (binop aluXor 2 (s.wr dst) (s.srcThrough (s.wr src)) s)

/-- XOR R,R, opcode B4 (R133, R75). -/
def execXor_reg_reg (dst src : Byte) (s : State) : Host.Outcome State Fault Refusal :=
  finish (binop aluXor 3 dst (s.srcReg src) s)

/-- XOR R,IR, opcode B5 (R133, R75). -/
def execXor_reg_ireg (dst src : Byte) (s : State) : Host.Outcome State Fault Refusal :=
  finish (binop aluXor 3 dst (s.srcThrough src) s)

/-- XOR R,IM, opcode B6 (R133, R75). -/
def execXor_reg_im (dst im : Byte) (s : State) : Host.Outcome State Fault Refusal :=
  finish (binop aluXor 3 dst (.ok im) s)

/-- COM R, opcode 60 (R131, R76). -/
def execCom_reg (dst : Byte) (s : State) : Host.Outcome State Fault Refusal :=
  finish (unop aluCom 2 dst s)

/-- COM IR, opcode 61 (R131, R76). -/
def execCom_ireg (dst : Byte) (s : State) : Host.Outcome State Fault Refusal :=
  finish (unopThrough aluCom 2 dst s)

end Sys2Proof.Machine
end

