-- ==== Sys2Proof/Machine/ProgramControl.lean ====
section
/-! DEFINITION. The meanings of the program control instructions CALL, IRET, JP, JR, RET (43_program_control). -/

namespace Sys2Proof.Machine

/-- CALL DA, opcode F6 (R141). -/
def execCall_da (addr : Addr) (s : State) : Host.Outcome State Fault Refusal :=
  finish (callTo 3 addr s)

/-- CALL IRR, opcode F4 (R141). -/
def execCall_ipair (dst : Byte) (s : State) : Host.Outcome State Fault Refusal :=
  finish (callThrough dst s)

/-- IRET, opcode BF (R142). -/
def execIret (s : State) : Host.Outcome State Fault Refusal :=
  finish (returnFromInterrupt s)

/-- JP cc,DA, opcode ccD (R143). -/
def execJp_cc_da (cc : Cond) (addr : Addr) (s : State) : Host.Outcome State Fault Refusal :=
  .next (jumpIf cc 3 addr s)

/-- JP IRR, opcode 30 (R144). -/
def execJp_ipair (dst : Byte) (s : State) : Host.Outcome State Fault Refusal :=
  finish (jumpTo (s.addrIpair dst) s)

/-- JR cc,RA, opcode ccB (R145): relative to the address after the instruction. -/
def execJr_cc_ra (cc : Cond) (ra : Byte) (s : State) : Host.Outcome State Fault Refusal :=
  .next (jumpIf cc 2 (s.npc 2 + ra.signExtend 16) s)

/-- RET, opcode AF (R146). -/
def execRet (s : State) : Host.Outcome State Fault Refusal :=
  finish (returnFromCall s)

end Sys2Proof.Machine
end

