-- ==== Sys2Proof/Machine/RotateShift.lean ====
section
/-! DEFINITION. The meanings of the rotate and shift instructions RL, RLC, RR, RRC, SRA (45_rotate_shift). -/

namespace Sys2Proof.Machine

/-- RLC R, opcode 10 (R156, R76). -/
def execRlc_reg (dst : Byte) (s : State) : Host.Outcome State Fault Refusal :=
  finish (unop aluRlc 2 dst s)

/-- RLC IR, opcode 11 (R156, R76). -/
def execRlc_ireg (dst : Byte) (s : State) : Host.Outcome State Fault Refusal :=
  finish (unopThrough aluRlc 2 dst s)

/-- RL R, opcode 90 (R155, R76). -/
def execRl_reg (dst : Byte) (s : State) : Host.Outcome State Fault Refusal :=
  finish (unop aluRl 2 dst s)

/-- RL IR, opcode 91 (R155, R76). -/
def execRl_ireg (dst : Byte) (s : State) : Host.Outcome State Fault Refusal :=
  finish (unopThrough aluRl 2 dst s)

/-- RRC R, opcode C0 (R158, R76). -/
def execRrc_reg (dst : Byte) (s : State) : Host.Outcome State Fault Refusal :=
  finish (unop aluRrc 2 dst s)

/-- RRC IR, opcode C1 (R158, R76). -/
def execRrc_ireg (dst : Byte) (s : State) : Host.Outcome State Fault Refusal :=
  finish (unopThrough aluRrc 2 dst s)

/-- SRA R, opcode D0 (R159, R76). -/
def execSra_reg (dst : Byte) (s : State) : Host.Outcome State Fault Refusal :=
  finish (unop aluSra 2 dst s)

/-- SRA IR, opcode D1 (R159, R76). -/
def execSra_ireg (dst : Byte) (s : State) : Host.Outcome State Fault Refusal :=
  finish (unopThrough aluSra 2 dst s)

/-- RR R, opcode E0 (R157, R76). -/
def execRr_reg (dst : Byte) (s : State) : Host.Outcome State Fault Refusal :=
  finish (unop aluRr 2 dst s)

/-- RR IR, opcode E1 (R157, R76). -/
def execRr_ireg (dst : Byte) (s : State) : Host.Outcome State Fault Refusal :=
  finish (unopThrough aluRr 2 dst s)

end Sys2Proof.Machine
end

