-- ==== Sys2Proof/Machine/Dispatch.lean ====
section
/-! DEFINITION. One arm for each constructor of Instr, in the order of the opcode table: the meaning of
the instruction, which has its definition in the file of its family. -/

namespace Sys2Proof.Machine

def exec (i : Instr) (s : State) : Host.Outcome State Fault Refusal :=
  match i with
  | .add_r_r dst src => Sys2Proof.Machine.execAdd_r_r dst src s
  | .add_r_ir dst src => Sys2Proof.Machine.execAdd_r_ir dst src s
  | .add_reg_reg dst src => Sys2Proof.Machine.execAdd_reg_reg dst src s
  | .add_reg_ireg dst src => Sys2Proof.Machine.execAdd_reg_ireg dst src s
  | .add_reg_im dst im => Sys2Proof.Machine.execAdd_reg_im dst im s
  | .adc_r_r dst src => Sys2Proof.Machine.execAdc_r_r dst src s
  | .adc_r_ir dst src => Sys2Proof.Machine.execAdc_r_ir dst src s
  | .adc_reg_reg dst src => Sys2Proof.Machine.execAdc_reg_reg dst src s
  | .adc_reg_ireg dst src => Sys2Proof.Machine.execAdc_reg_ireg dst src s
  | .adc_reg_im dst im => Sys2Proof.Machine.execAdc_reg_im dst im s
  | .sub_r_r dst src => Sys2Proof.Machine.execSub_r_r dst src s
  | .sub_r_ir dst src => Sys2Proof.Machine.execSub_r_ir dst src s
  | .sub_reg_reg dst src => Sys2Proof.Machine.execSub_reg_reg dst src s
  | .sub_reg_ireg dst src => Sys2Proof.Machine.execSub_reg_ireg dst src s
  | .sub_reg_im dst im => Sys2Proof.Machine.execSub_reg_im dst im s
  | .sbc_r_r dst src => Sys2Proof.Machine.execSbc_r_r dst src s
  | .sbc_r_ir dst src => Sys2Proof.Machine.execSbc_r_ir dst src s
  | .sbc_reg_reg dst src => Sys2Proof.Machine.execSbc_reg_reg dst src s
  | .sbc_reg_ireg dst src => Sys2Proof.Machine.execSbc_reg_ireg dst src s
  | .sbc_reg_im dst im => Sys2Proof.Machine.execSbc_reg_im dst im s
  | .or_r_r dst src => Sys2Proof.Machine.execOr_r_r dst src s
  | .or_r_ir dst src => Sys2Proof.Machine.execOr_r_ir dst src s
  | .or_reg_reg dst src => Sys2Proof.Machine.execOr_reg_reg dst src s
  | .or_reg_ireg dst src => Sys2Proof.Machine.execOr_reg_ireg dst src s
  | .or_reg_im dst im => Sys2Proof.Machine.execOr_reg_im dst im s
  | .and_r_r dst src => Sys2Proof.Machine.execAnd_r_r dst src s
  | .and_r_ir dst src => Sys2Proof.Machine.execAnd_r_ir dst src s
  | .and_reg_reg dst src => Sys2Proof.Machine.execAnd_reg_reg dst src s
  | .and_reg_ireg dst src => Sys2Proof.Machine.execAnd_reg_ireg dst src s
  | .and_reg_im dst im => Sys2Proof.Machine.execAnd_reg_im dst im s
  | .tcm_r_r dst src => Sys2Proof.Machine.execTcm_r_r dst src s
  | .tcm_r_ir dst src => Sys2Proof.Machine.execTcm_r_ir dst src s
  | .tcm_reg_reg dst src => Sys2Proof.Machine.execTcm_reg_reg dst src s
  | .tcm_reg_ireg dst src => Sys2Proof.Machine.execTcm_reg_ireg dst src s
  | .tcm_reg_im dst im => Sys2Proof.Machine.execTcm_reg_im dst im s
  | .tm_r_r dst src => Sys2Proof.Machine.execTm_r_r dst src s
  | .tm_r_ir dst src => Sys2Proof.Machine.execTm_r_ir dst src s
  | .tm_reg_reg dst src => Sys2Proof.Machine.execTm_reg_reg dst src s
  | .tm_reg_ireg dst src => Sys2Proof.Machine.execTm_reg_ireg dst src s
  | .tm_reg_im dst im => Sys2Proof.Machine.execTm_reg_im dst im s
  | .cp_r_r dst src => Sys2Proof.Machine.execCp_r_r dst src s
  | .cp_r_ir dst src => Sys2Proof.Machine.execCp_r_ir dst src s
  | .cp_reg_reg dst src => Sys2Proof.Machine.execCp_reg_reg dst src s
  | .cp_reg_ireg dst src => Sys2Proof.Machine.execCp_reg_ireg dst src s
  | .cp_reg_im dst im => Sys2Proof.Machine.execCp_reg_im dst im s
  | .xor_r_r dst src => Sys2Proof.Machine.execXor_r_r dst src s
  | .xor_r_ir dst src => Sys2Proof.Machine.execXor_r_ir dst src s
  | .xor_reg_reg dst src => Sys2Proof.Machine.execXor_reg_reg dst src s
  | .xor_reg_ireg dst src => Sys2Proof.Machine.execXor_reg_ireg dst src s
  | .xor_reg_im dst im => Sys2Proof.Machine.execXor_reg_im dst im s
  | .dec_reg dst => Sys2Proof.Machine.execDec_reg dst s
  | .dec_ireg dst => Sys2Proof.Machine.execDec_ireg dst s
  | .rlc_reg dst => Sys2Proof.Machine.execRlc_reg dst s
  | .rlc_ireg dst => Sys2Proof.Machine.execRlc_ireg dst s
  | .inc_reg dst => Sys2Proof.Machine.execInc_reg dst s
  | .inc_ireg dst => Sys2Proof.Machine.execInc_ireg dst s
  | .pop_reg dst => Sys2Proof.Machine.execPop_reg dst s
  | .pop_ireg dst => Sys2Proof.Machine.execPop_ireg dst s
  | .com_reg dst => Sys2Proof.Machine.execCom_reg dst s
  | .com_ireg dst => Sys2Proof.Machine.execCom_ireg dst s
  | .push_reg src => Sys2Proof.Machine.execPush_reg src s
  | .push_ireg src => Sys2Proof.Machine.execPush_ireg src s
  | .rl_reg dst => Sys2Proof.Machine.execRl_reg dst s
  | .rl_ireg dst => Sys2Proof.Machine.execRl_ireg dst s
  | .clr_reg dst => Sys2Proof.Machine.execClr_reg dst s
  | .clr_ireg dst => Sys2Proof.Machine.execClr_ireg dst s
  | .rrc_reg dst => Sys2Proof.Machine.execRrc_reg dst s
  | .rrc_ireg dst => Sys2Proof.Machine.execRrc_ireg dst s
  | .sra_reg dst => Sys2Proof.Machine.execSra_reg dst s
  | .sra_ireg dst => Sys2Proof.Machine.execSra_ireg dst s
  | .rr_reg dst => Sys2Proof.Machine.execRr_reg dst s
  | .rr_ireg dst => Sys2Proof.Machine.execRr_ireg dst s
  | .inc_r dst => Sys2Proof.Machine.execInc_r dst s
  | .ld_r_im dst im => Sys2Proof.Machine.execLd_r_im dst im s
  | .ld_r_reg dst src => Sys2Proof.Machine.execLd_r_reg dst src s
  | .ld_reg_r dst src => Sys2Proof.Machine.execLd_reg_r dst src s
  | .ld_r_ir dst src => Sys2Proof.Machine.execLd_r_ir dst src s
  | .ld_ir_r dst src => Sys2Proof.Machine.execLd_ir_r dst src s
  | .ld_reg_reg dst src => Sys2Proof.Machine.execLd_reg_reg dst src s
  | .ld_reg_ireg dst src => Sys2Proof.Machine.execLd_reg_ireg dst src s
  | .ld_reg_im dst im => Sys2Proof.Machine.execLd_reg_im dst im s
  | .ld_ireg_im dst im => Sys2Proof.Machine.execLd_ireg_im dst im s
  | .ld_ireg_reg dst src => Sys2Proof.Machine.execLd_ireg_reg dst src s
  | .ld_r_x dst x idx => Sys2Proof.Machine.execLd_r_x dst x idx s
  | .ld_x_r x idx src => Sys2Proof.Machine.execLd_x_r x idx src s
  | .ldc_r_irr dst pair => Sys2Proof.Machine.execLdc_r_irr dst pair s
  | .lde_r_irr dst pair => Sys2Proof.Machine.execLde_r_irr dst pair s
  | .ldc_irr_r pair src => Sys2Proof.Machine.execLdc_irr_r pair src s
  | .lde_irr_r pair src => Sys2Proof.Machine.execLde_irr_r pair src s
  | .ldc_r_xs dst xs pair => Sys2Proof.Machine.execLdc_r_xs dst xs pair s
  | .lde_r_xs dst xs pair => Sys2Proof.Machine.execLde_r_xs dst xs pair s
  | .ldc_xs_r xs pair src => Sys2Proof.Machine.execLdc_xs_r xs pair src s
  | .lde_xs_r xs pair src => Sys2Proof.Machine.execLde_xs_r xs pair src s
  | .ldc_r_da dst addr => Sys2Proof.Machine.execLdc_r_da dst addr s
  | .lde_r_da dst addr => Sys2Proof.Machine.execLde_r_da dst addr s
  | .ldc_r_xl dst xl pair => Sys2Proof.Machine.execLdc_r_xl dst xl pair s
  | .lde_r_xl dst xl pair => Sys2Proof.Machine.execLde_r_xl dst xl pair s
  | .ldc_da_r addr src => Sys2Proof.Machine.execLdc_da_r addr src s
  | .lde_da_r addr src => Sys2Proof.Machine.execLde_da_r addr src s
  | .ldc_xl_r xl pair src => Sys2Proof.Machine.execLdc_xl_r xl pair src s
  | .lde_xl_r xl pair src => Sys2Proof.Machine.execLde_xl_r xl pair src s
  | .ldcd_r_irr dst pair => Sys2Proof.Machine.execLdcd_r_irr dst pair s
  | .lded_r_irr dst pair => Sys2Proof.Machine.execLded_r_irr dst pair s
  | .ldci_r_irr dst pair => Sys2Proof.Machine.execLdci_r_irr dst pair s
  | .ldei_r_irr dst pair => Sys2Proof.Machine.execLdei_r_irr dst pair s
  | .call_da addr => Sys2Proof.Machine.execCall_da addr s
  | .call_ipair dst => Sys2Proof.Machine.execCall_ipair dst s
  | .iret => Sys2Proof.Machine.execIret s
  | .jp_cc_da cc addr => Sys2Proof.Machine.execJp_cc_da cc addr s
  | .jp_ipair dst => Sys2Proof.Machine.execJp_ipair dst s
  | .jr_cc_ra cc ra => Sys2Proof.Machine.execJr_cc_ra cc ra s
  | .ret => Sys2Proof.Machine.execRet s
  | .ccf => Sys2Proof.Machine.execCcf s
  | .di => Sys2Proof.Machine.execDi s
  | .ei => Sys2Proof.Machine.execEi s
  | .idle => Sys2Proof.Machine.execIdle s
  | .nop => Sys2Proof.Machine.execNop s
  | .rcf => Sys2Proof.Machine.execRcf s
  | .scf => Sys2Proof.Machine.execScf s
  | .stop => Sys2Proof.Machine.execStop s

end Sys2Proof.Machine
end

