-- ==== Sys2Proof/Machine/Fetch.lean ====
section
/-! DEFINITION. Fetching and decoding the instruction at pc (10_state R14, R15; 20_memory R50;
30_encoding R60, R69, R71), and placing one there. -/

namespace Sys2Proof.Machine

/-- `Fetch(a)`: one instruction byte. An address not below PM_SIZE stops (10_state R14), and so does a byte
written since reset (20_memory R50). -/
def State.fetchByte (s : State) (a : Addr) : Except Fault Byte := do
  let b ← s.pmLoad a
  if s.pmWritten.contains a.toNat then .error (.fetchOfModifiedCode a) else .ok b

/-- `n` instruction bytes from `a` on, in address order; the address wraps modulo 2^16 (10_state R15). -/
def State.fetchBytes (s : State) (n : Nat) (a : Addr) : Except Fault (List Byte) :=
  match n with
  | 0 => .ok []
  | k + 1 => do
    let b ← s.fetchByte a
    let bs ← s.fetchBytes k (a + 1#16)
    .ok (b :: bs)

/-- The instruction at pc: the first byte gives the length, then the rest is fetched (30_encoding R60); an
undefined first byte stops without a guess at a length (R71). -/
def State.fetchInstr (s : State) : Except Fault Instr := do
  let b1 ← s.fetchByte s.pc
  match opLength b1 with
  | none => .error (.illegalOpcode b1)
  | some n => do
    let bs ← s.fetchBytes (n - 1) (s.pc + 1#16)
    match decode (b1 :: bs) with
    | .instr i _ => .ok i
    | .illegalOpcode b => .error (.illegalOpcode b)
    | .truncated => .error (.illegalOpcode b1)

/-- Store bytes in program memory from `a` on, as the loader of an image does: not a store of the CPU's, so
the addresses are not among those written since reset. -/
def State.loadImage (s : State) (a : Addr) (bytes : List Byte) : State :=
  match bytes with
  | [] => s
  | b :: bs =>
    State.loadImage { s with
      pm := Memory.write s.pm a.toNat b
      pmWritten := s.pmWritten.filter (· != a.toNat) } (a + 1#16) bs

end Sys2Proof.Machine
end

