-- ==== Sys2Proof/Machine/Boundary.lean ====
section
/-! DEFINITION. What the machine does at an instruction boundary (60_exceptions R184, R186, R194). -/

namespace Sys2Proof.Machine

/-- Whether a pending request is one that releases the run state: any in Idle mode, one marked external in
Stop mode (60_exceptions R194). -/
def State.releasing (s : State) : Bool :=
  match s.runState with
  | .running => false
  | .idle => !s.pending.isEmpty
  | .stop => s.pending.any (·.external)

/-- Fetch, decode and run one instruction (60_exceptions R184, item 3). -/
def runInstr (s : State) : Host.Outcome State Fault Refusal :=
  match s.fetchInstr with
  | .ok i => exec i s
  | .error f => .fault f

/-- Running: a pending request is taken if SYM.2 = 1, else the next instruction runs (R184, R185). -/
def runningBoundary (s : State) : Host.Outcome State Fault Refusal :=
  if s.interruptsEnabled && !s.pending.isEmpty then finish (takeInterrupt s) else runInstr s

/-- Idle or Stop: a releasing request is taken as an interrupt if SYM.2 = 1; if it is masked it wakes the
CPU or not as IDLE_WAKE_WHEN_MASKED says; without one nothing happens (R194, log 21). -/
def haltedBoundary (s : State) : Host.Outcome State Fault Refusal :=
  if s.releasing then
    if s.interruptsEnabled then finish (takeInterrupt { s with runState := .running })
    else if s.cfg.idleWakeWhenMasked then .next { s with runState := .running }
    else .next s
  else .next s

/-- One instruction boundary: reset wins over everything, then the run state decides (R184). -/
def boundary (s : State) : Host.Outcome State Fault Refusal :=
  if s.resetAsserted then .next (takeReset s)
  else
    match s.runState with
    | .running => runningBoundary s
    | .idle => haltedBoundary s
    | .stop => haltedBoundary s

/-- Count the step, so that the next one has free values of its own (log 28). -/
def countStep (o : Host.Outcome State Fault Refusal) : Host.Outcome State Fault Refusal :=
  match o with
  | .next s => .next { s with tick := s.tick + 1 }
  | .fault f => .fault f
  | .refused r => .refused r

end Sys2Proof.Machine
end

