-- ==== Sys2Proof/Machine/Step.lean ====
section
/-! DEFINITION. One step of the machine, and the placing of one instruction where the step fetches. -/

namespace Sys2Proof.Machine

/-- One step: what happens at the instruction boundary, with the model's step counter moved on. -/
def step (s : State) : Host.Outcome State Fault Refusal := countStep (boundary s)

/-- `s` with a table word stored where the next step fetches, so that the next step runs it (log 25, log 26):
four bytes at pc, those past `nbits` zero. A fetch also needs a running CPU, no reset and no interrupt about
to be taken. -/
def State.withFetchWord (s : State) (nbits w : Nat) : State :=
  { s.loadImage s.pc (tableBytes nbits w) with
    runState := .running
    resetAsserted := false
    pending := if s.interruptsEnabled then [] else s.pending }

end Sys2Proof.Machine
end

