-- ==== Sys2Proof/Machine/Environment.lean ====
section
/-! DEFINITION. What the outside may do to the running machine between two steps: assert reset, add and
remove interrupt requests (60_exceptions R182; 70_reset_and_hazards R210, R218). What platform registers
read is its choice too, and that is the free value `Config.platformRead`. -/

namespace Sys2Proof.Machine

/-- The environment asserts reset (70_reset_and_hazards R210). -/
def State.assertReset (s : State) : State := { s with resetAsserted := true }

/-- The environment adds a request to the pending set (60_exceptions R182, R183: at any time, whether or
not interrupts are enabled). -/
def State.raiseRequest (s : State) (r : Request) : State := { s with pending := s.pending.insert r }

/-- The environment removes a request, when the platform's acknowledge condition is met (R182). -/
def State.withdrawRequest (s : State) (r : Request) : State := { s with pending := s.pending.erase r }

/-- One action of the environment. -/
inductive EnvAction : State → State → Prop where
  | assertReset (s : State) : EnvAction s s.assertReset
  | raiseRequest (s : State) (r : Request) : EnvAction s (s.raiseRequest r)
  | withdrawRequest (s : State) (r : Request) : EnvAction s (s.withdrawRequest r)

end Sys2Proof.Machine
end

