-- ==== Sys2Proof/Safety.lean ====
section
/-! DEFINITION. Runs, the end of a run, and the invariant of the machine, in the terms claims use
(70_reset_and_hazards R218; 20_memory R47, R50). -/

namespace Sys2Proof.Machine

/-- Whether pc holds the address of an unconditional jump to itself (R218): `JR T,$` (8B FE), or `JP T,addr`
with addr its own address. -/
def State.atSelfJump (s : State) : Bool :=
  match s.fetchInstr with
  | .ok (.jr_cc_ra .t ra) => ra == 0xFE#8
  | .ok (.jp_cc_da .t a) => a == s.pc
  | _ => false

/-- The end of a run (R218): Idle or Stop mode, or at a jump to itself with SYM.2 = 0. -/
def State.final (s : State) : Bool :=
  s.runState != .running || (s.atSelfJump && !s.interruptsEnabled)

/-- States a run reaches: from `s` by steps of the machine, between which the environment may act (R218). -/
inductive Reaches (s : State) : State → Prop where
  | refl : Reaches s s
  | step {t u : State} : Reaches s t → step t = .next u → Reaches s u
  | env {t u : State} : Reaches s t → EnvAction t u → Reaches s u

/-- The memories as the machine keeps them: both in canonical form, data memory within DM_SIZE, the addresses
written since reset strictly rising, within PM_SIZE and listed, and none where PM_WRITABLE is false
(20_memory R50, R53). -/
structure State.MemoryInv (s : State) : Prop where
  pmWf : s.pm.wf
  dmWf : s.dm.wf
  dmBound : ∀ c ∈ s.dm, c.1 < s.cfg.dmSize.val
  writtenRising : s.pmWritten.Pairwise (· < ·)
  writtenBound : ∀ a ∈ s.pmWritten, a < s.cfg.pmSize.val
  writtenListed : ∀ a ∈ s.pmWritten, ∃ v, Memory.find? s.pm a = some v
  writtenMasked : s.cfg.pmWritable = false → s.pmWritten = []

/-- The first `n` steps of the run from `s` raise no fault: what the spec defines covers them
(60_exceptions R180). -/
def State.SafeFor (s : State) (n : Nat) : Prop :=
  ∀ k ≤ n, ∀ f, Host.Core.run Sys2Proof.core k s ≠ .fault f

end Sys2Proof.Machine
end

