-- ==== Sys2Proof/Safety/Terms.lean ====
section
/-! DEFINITION. The terms the obligations are stated in: the operand forms of the spec as data, what an
instruction of each form reads, and what a step changes and leaves as it was. Nothing of the machine is
defined here. -/

namespace Sys2Proof.Claims

open Sys2Proof.Machine

/-! ### The two-operand and one-operand form sets -/

/-- The instructions of the two-operand form set (30_encoding R75). -/
inductive Op2 where
  | add | adc | sub | sbc | or | and | tcm | tm | cp | xor
  deriving DecidableEq, Repr

/-- The five two-operand forms (R75): `rr` is r,r; `rir` is r,Ir; `rgrg` is R,R; `rgir` is R,IR; `rgim` is
R,IM. Destination first. -/
inductive Form2 where
  | rr (d s : WReg)
  | rir (d s : WReg)
  | rgrg (d s : Byte)
  | rgir (d s : Byte)
  | rgim (d im : Byte)
  deriving DecidableEq, Repr

/-- The high nibble of the opcode (R75). -/
def Op2.nibble : Op2 → BitVec 4
  | .add => 0x0#4
  | .adc => 0x1#4
  | .sub => 0x2#4
  | .sbc => 0x3#4
  | .or => 0x4#4
  | .and => 0x5#4
  | .tcm => 0x6#4
  | .tm => 0x7#4
  | .cp => 0xA#4
  | .xor => 0xB#4

/-- The instruction of an operation and a form. -/
def Op2.instr : Op2 → Form2 → Instr
  | .add, .rr d s => .add_r_r d s
  | .add, .rir d s => .add_r_ir d s
  | .add, .rgrg d s => .add_reg_reg d s
  | .add, .rgir d s => .add_reg_ireg d s
  | .add, .rgim d s => .add_reg_im d s
  | .adc, .rr d s => .adc_r_r d s
  | .adc, .rir d s => .adc_r_ir d s
  | .adc, .rgrg d s => .adc_reg_reg d s
  | .adc, .rgir d s => .adc_reg_ireg d s
  | .adc, .rgim d s => .adc_reg_im d s
  | .sub, .rr d s => .sub_r_r d s
  | .sub, .rir d s => .sub_r_ir d s
  | .sub, .rgrg d s => .sub_reg_reg d s
  | .sub, .rgir d s => .sub_reg_ireg d s
  | .sub, .rgim d s => .sub_reg_im d s
  | .sbc, .rr d s => .sbc_r_r d s
  | .sbc, .rir d s => .sbc_r_ir d s
  | .sbc, .rgrg d s => .sbc_reg_reg d s
  | .sbc, .rgir d s => .sbc_reg_ireg d s
  | .sbc, .rgim d s => .sbc_reg_im d s
  | .or, .rr d s => .or_r_r d s
  | .or, .rir d s => .or_r_ir d s
  | .or, .rgrg d s => .or_reg_reg d s
  | .or, .rgir d s => .or_reg_ireg d s
  | .or, .rgim d s => .or_reg_im d s
  | .and, .rr d s => .and_r_r d s
  | .and, .rir d s => .and_r_ir d s
  | .and, .rgrg d s => .and_reg_reg d s
  | .and, .rgir d s => .and_reg_ireg d s
  | .and, .rgim d s => .and_reg_im d s
  | .tcm, .rr d s => .tcm_r_r d s
  | .tcm, .rir d s => .tcm_r_ir d s
  | .tcm, .rgrg d s => .tcm_reg_reg d s
  | .tcm, .rgir d s => .tcm_reg_ireg d s
  | .tcm, .rgim d s => .tcm_reg_im d s
  | .tm, .rr d s => .tm_r_r d s
  | .tm, .rir d s => .tm_r_ir d s
  | .tm, .rgrg d s => .tm_reg_reg d s
  | .tm, .rgir d s => .tm_reg_ireg d s
  | .tm, .rgim d s => .tm_reg_im d s
  | .cp, .rr d s => .cp_r_r d s
  | .cp, .rir d s => .cp_r_ir d s
  | .cp, .rgrg d s => .cp_reg_reg d s
  | .cp, .rgir d s => .cp_reg_ireg d s
  | .cp, .rgim d s => .cp_reg_im d s
  | .xor, .rr d s => .xor_r_r d s
  | .xor, .rir d s => .xor_r_ir d s
  | .xor, .rgrg d s => .xor_reg_reg d s
  | .xor, .rgir d s => .xor_reg_ireg d s
  | .xor, .rgim d s => .xor_reg_im d s

/-- The bytes of a form behind the opcode's high nibble (R75: r,r and r,Ir are `dst|src`; R,R and R,IR are
source then destination; R,IM is destination then immediate). -/
def Form2.bytes (h : BitVec 4) : Form2 → List Byte
  | .rr d s => [h ++ 0x2#4, d ++ s]
  | .rir d s => [h ++ 0x3#4, d ++ s]
  | .rgrg d s => [h ++ 0x4#4, s, d]
  | .rgir d s => [h ++ 0x5#4, s, d]
  | .rgim d im => [h ++ 0x6#4, d, im]

/-- The length of a form in bytes (R75). -/
def Form2.len : Form2 → Nat
  | .rr _ _ | .rir _ _ => 2
  | .rgrg _ _ | .rgir _ _ | .rgim _ _ => 3

/-- The destination location D of a form (R75). -/
def Form2.dst (s : State) : Form2 → Byte
  | .rr d _ | .rir d _ => s.wr d
  | .rgrg d _ | .rgir d _ | .rgim d _ => d

/-- The source value s of a form (R75): a register, the register that a register points to, or the
immediate. -/
def Form2.src (s : State) : Form2 → Except Fault Byte
  | .rr _ r => s.read 1 (s.wr r)
  | .rir _ r => (s.read 0 (s.wr r)).bind (s.read 1)
  | .rgrg _ a => s.read 1 a
  | .rgir _ a => (s.read 0 a).bind (s.read 1)
  | .rgim _ im => .ok im

/-- The instructions of the one-operand form set (R76). -/
inductive Op1 where
  | dec | rlc | inc | pop | com | push | rl | clr | rrc | sra | rr
  deriving DecidableEq, Repr

/-- The two one-operand forms (R76): `rg` is R, `ir` is IR. -/
inductive Form1 where
  | rg (a : Byte)
  | ir (a : Byte)
  deriving DecidableEq, Repr

/-- The high nibble of the opcode (R76). -/
def Op1.nibble : Op1 → BitVec 4
  | .dec => 0x0#4
  | .rlc => 0x1#4
  | .inc => 0x2#4
  | .pop => 0x5#4
  | .com => 0x6#4
  | .push => 0x7#4
  | .rl => 0x9#4
  | .clr => 0xB#4
  | .rrc => 0xC#4
  | .sra => 0xD#4
  | .rr => 0xE#4

/-- The instruction of an operation and a form. -/
def Op1.instr : Op1 → Form1 → Instr
  | .dec, .rg a => .dec_reg a
  | .dec, .ir a => .dec_ireg a
  | .rlc, .rg a => .rlc_reg a
  | .rlc, .ir a => .rlc_ireg a
  | .inc, .rg a => .inc_reg a
  | .inc, .ir a => .inc_ireg a
  | .pop, .rg a => .pop_reg a
  | .pop, .ir a => .pop_ireg a
  | .com, .rg a => .com_reg a
  | .com, .ir a => .com_ireg a
  | .push, .rg a => .push_reg a
  | .push, .ir a => .push_ireg a
  | .rl, .rg a => .rl_reg a
  | .rl, .ir a => .rl_ireg a
  | .clr, .rg a => .clr_reg a
  | .clr, .ir a => .clr_ireg a
  | .rrc, .rg a => .rrc_reg a
  | .rrc, .ir a => .rrc_ireg a
  | .sra, .rg a => .sra_reg a
  | .sra, .ir a => .sra_ireg a
  | .rr, .rg a => .rr_reg a
  | .rr, .ir a => .rr_ireg a

/-- The bytes of a form behind the opcode's high nibble (R76). -/
def Form1.bytes (h : BitVec 4) : Form1 → List Byte
  | .rg a => [h ++ 0x0#4, a]
  | .ir a => [h ++ 0x1#4, a]

/-- The operand location D of a form (R76): the register itself, or the one it points to. -/
def Form1.loc (s : State) : Form1 → Except Fault Byte
  | .rg a => .ok a
  | .ir a => s.read 0 a

/-! ### LD, LDC and LDE -/

/-- The forms of LD (40_load R101), destination first. -/
inductive LdForm where
  | rim (d : WReg) (im : Byte)
  | rrg (d : WReg) (a : Byte)
  | rgr (a : Byte) (r : WReg)
  | rir (d r : WReg)
  | irr (d r : WReg)
  | rgrg (d a : Byte)
  | rgir (d a : Byte)
  | rgim (d im : Byte)
  | irim (d im : Byte)
  | irrg (d a : Byte)
  | rx (d : WReg) (x : Byte) (i : WReg)
  | xr (x : Byte) (i r : WReg)
  deriving DecidableEq, Repr

/-- The LD instruction of a form. -/
def LdForm.instr : LdForm → Instr
  | .rim d im => .ld_r_im d im
  | .rrg d a => .ld_r_reg d a
  | .rgr a r => .ld_reg_r a r
  | .rir d r => .ld_r_ir d r
  | .irr d r => .ld_ir_r d r
  | .rgrg d a => .ld_reg_reg d a
  | .rgir d a => .ld_reg_ireg d a
  | .rgim d im => .ld_reg_im d im
  | .irim d im => .ld_ireg_im d im
  | .irrg d a => .ld_ireg_reg d a
  | .rx d x i => .ld_r_x d x i
  | .xr x i r => .ld_x_r x i r

/-- The two forms, opcodes E5 and F5, whose direction is from general knowledge (92_eei_decisions D26). -/
def LdForm.presumedDirection : LdForm → Bool
  | .rgir _ _ | .irrg _ _ => true
  | .rim _ _ | .rrg _ _ | .rgr _ _ | .rir _ _ | .irr _ _ | .rgrg _ _ | .rgim _ _ | .irim _ _ | .rx _ _ _
  | .xr _ _ _ => false

/-- The length of an LD form in bytes (R101). -/
def LdForm.len : LdForm → Nat
  | .rim _ _ | .rrg _ _ | .rgr _ _ | .rir _ _ | .irr _ _ => 2
  | .rgrg _ _ | .rgir _ _ | .rgim _ _ | .irim _ _ | .irrg _ _ | .rx _ _ _ | .xr _ _ _ => 3

/-- The bytes of an LD form (the columns "opcode" and "format" of R101). The opcodes of `rim`, `rrg` and `rgr` are
PRESUMED (92_eei_decisions D27, log 12), and so is the direction that E5 and F5 stand for (D26, log 11). -/
def LdForm.bytes : LdForm → List Byte
  | .rim d im => [d ++ 0xC#4, im]
  | .rrg d a => [d ++ 0x8#4, a]
  | .rgr a r => [r ++ 0x9#4, a]
  | .rir d r => [0xC7#8, d ++ r]
  | .irr d r => [0xD7#8, d ++ r]
  | .rgrg d a => [0xE4#8, a, d]
  | .rgir d a => [0xE5#8, a, d]
  | .rgim d im => [0xE6#8, d, im]
  | .irim d im => [0xD6#8, d, im]
  | .irrg d a => [0xF5#8, a, d]
  | .rx d x i => [0x87#8, d ++ i, x]
  | .xr x i r => [0x97#8, r ++ i, x]

/-- The location an LD form writes (the column "effect" of R101). -/
def LdForm.dst (s : State) : LdForm → Except Fault Byte
  | .rim d _ | .rrg d _ | .rir d _ | .rx d _ _ => .ok (s.wr d)
  | .rgr a _ | .rgrg a _ | .rgir a _ | .rgim a _ => .ok a
  | .irr d _ => s.read 0 (s.wr d)
  | .irim d _ | .irrg d _ => s.read 0 d
  | .xr x i _ => (s.read 0 (s.wr i)).map (x + ·)

/-- The byte an LD form loads (the column "effect" of R101). -/
def LdForm.src (s : State) : LdForm → Except Fault Byte
  | .rim _ im | .rgim _ im | .irim _ im => .ok im
  | .rrg _ a | .rgrg _ a | .irrg _ a => s.read 1 a
  | .rgr _ r | .irr _ r | .xr _ _ r => s.read 1 (s.wr r)
  | .rir _ r => (s.read 0 (s.wr r)).bind (s.read 1)
  | .rgir _ a => (s.read 0 a).bind (s.read 1)
  | .rx _ x i => (s.read 0 (s.wr i)).bind fun v => s.read 1 (x + v)

/-- The two memories that LDC and LDE reach (20_memory R40). -/
inductive Space where
  | program | data
  deriving DecidableEq, Repr

/-- The address forms of LDC and LDE (40_load R102 to R105). -/
inductive MemForm where
  | irr (p : Pair)
  | xs (xs : Byte) (p : Pair)
  | xl (xl : Addr) (p : Pair)
  | da (a : Addr)
  deriving DecidableEq, Repr

/-- LDC dst,src or LDE dst,src, the load forms (R102, R104). -/
def Space.load : Space → WReg → MemForm → Instr
  | .program, d, .irr p => .ldc_r_irr d p
  | .program, d, .xs o p => .ldc_r_xs d o p
  | .program, d, .xl o p => .ldc_r_xl d o p
  | .program, d, .da a => .ldc_r_da d a
  | .data, d, .irr p => .lde_r_irr d p
  | .data, d, .xs o p => .lde_r_xs d o p
  | .data, d, .xl o p => .lde_r_xl d o p
  | .data, d, .da a => .lde_r_da d a

/-- LDC dst,src or LDE dst,src, the store forms (R103, R105). -/
def Space.store : Space → MemForm → WReg → Instr
  | .program, .irr p, r => .ldc_irr_r p r
  | .program, .xs o p, r => .ldc_xs_r o p r
  | .program, .xl o p, r => .ldc_xl_r o p r
  | .program, .da a, r => .ldc_da_r a r
  | .data, .irr p, r => .lde_irr_r p r
  | .data, .xs o p, r => .lde_xs_r o p r
  | .data, .xl o p, r => .lde_xl_r o p r
  | .data, .da a, r => .lde_da_r a r

/-- LDCD, LDED (down) and LDCI, LDEI (up) (R106 to R109). -/
def Space.loadStep : Space → (up : Bool) → WReg → Pair → Instr
  | .program, false, d, p => .ldcd_r_irr d p
  | .data, false, d, p => .lded_r_irr d p
  | .program, true, d, p => .ldci_r_irr d p
  | .data, true, d, p => .ldei_r_irr d p

/-- The length of an LDC or LDE form in bytes (R102 to R105). -/
def MemForm.len : MemForm → Nat
  | .irr _ => 2
  | .xs _ _ => 3
  | .xl _ _ | .da _ => 4

/-- The bit of the pair nibble that selects the memory (30_encoding R68): 0 for LDC, 1 for LDE. -/
def Space.bit : Space → BitVec 1
  | .program => 0#1
  | .data => 1#1

/-- The opcode byte of the load forms (R102, R104). -/
def MemForm.loadOpcode : MemForm → Byte
  | .irr _ => 0xC3#8
  | .xs _ _ => 0xE7#8
  | .xl _ _ | .da _ => 0xA7#8

/-- The opcode byte of the store forms (R103, R105). -/
def MemForm.storeOpcode : MemForm → Byte
  | .irr _ => 0xD3#8
  | .xs _ _ => 0xF7#8
  | .xl _ _ | .da _ => 0xB7#8

/-- The bytes of an LDC or LDE form behind its opcode byte, the data register in the high nibble, the low byte of
an offset or address first (R102 to R105). Pair 0 has no XL form: that nibble is the DA form's (30_encoding
R68). -/
def MemForm.operandBytes (sp : Space) (r : WReg) : MemForm → List Byte
  | .irr p => [r ++ (p ++ sp.bit)]
  | .xs o p => [r ++ (p ++ sp.bit), o]
  | .xl o p => [r ++ (p ++ sp.bit), o.extractLsb' 0 8, o.extractLsb' 8 8]
  | .da a => [r ++ (0#3 ++ sp.bit), a.extractLsb' 0 8, a.extractLsb' 8 8]

/-- The address A of a form: the same function of the machine that the meanings use (R64, R65, R66). -/
def MemForm.addr (s : State) : MemForm → Except Fault Addr
  | .irr p => s.addrIrr p
  | .xs o p => s.addrXs o p
  | .xl o p => s.addrXl o p
  | .da a => .ok a

/-- PM_SIZE or DM_SIZE. -/
def Space.size (s : State) : Space → Nat
  | .program => s.cfg.pmSize.val
  | .data => s.cfg.dmSize.val

/-- The byte of the space at an address. -/
def Space.byte (s : State) : Space → Nat → Byte
  | .program => s.pmByte
  | .data => s.dmByte

/-- The case of 60_exceptions R180's row Unpredictable that an instruction meets: a flag writer whose destination
is FLAGS (10_state R22), POP into SP or PUSH of SP (40_load R110, R111), a stepping load into its own address pair
(R106 to R109), CALL @ with an even pair that meets SP or the two bytes it is about to push (43_program_control
R141). -/
inductive Unpredictable (s : State) : Instr → Prop where
  | twoOperand (op : Op2) (f : Form2) (writes : op ∉ [.tcm, .tm, .cp]) (flags : f.dst s = flagsAddr) :
      Unpredictable s (op.instr f)
  | oneOperand (op : Op1) (f : Form1) (writes : op ∉ [.pop, .push, .clr]) (flags : f.loc s = .ok flagsAddr) :
      Unpredictable s (op.instr f)
  | incWorking (n : WReg) (flags : s.wr n = flagsAddr) : Unpredictable s (.inc_r n)
  | stackPointer (op : Op1) (f : Form1) (stack : op ∈ [.pop, .push]) (sp : f.loc s = .ok spAddr) :
      Unpredictable s (op.instr f)
  | ownPair (m : Space) (up : Bool) (d : WReg) (p : Pair)
      (inPair : s.wr d = s.pairAddr p ∨ s.wr d = s.pairAddr p + 1#8) : Unpredictable s (m.loadStep up d p)
  | callOverlap (a b : Byte) (even : a.getLsbD 0 = false) (inPair : b = a ∨ b = a + 1#8)
      (meets : b = spAddr ∨ b = s.sp - 1#8 ∨ b = s.sp - 2#8) : Unpredictable s (.call_ipair a)

/-- The instruction reads or writes memory `m` at address `A`, by the machine's own function for the address of
its form. An LDC store that PM_WRITABLE forbids reaches no address (40_load R103). -/
inductive Addresses (s : State) (m : Space) (A : Addr) : Instr → Prop where
  | load (d : WReg) (f : MemForm) (at_ : f.addr s = .ok A) : Addresses s m A (m.load d f)
  | store (f : MemForm) (r : WReg) (at_ : f.addr s = .ok A)
      (allowed : m = .program → s.cfg.pmWritable = true) : Addresses s m A (m.store f r)
  | loadStep (up : Bool) (d : WReg) (p : Pair) (at_ : s.addrIrr p = .ok A) :
      Addresses s m A (m.loadStep up d p)

/-- The LDC store forms, the only instructions that write program memory (20_memory R50). -/
def StoresProgram (i : Instr) : Prop := ∃ f r, i = Space.program.store f r

/-- The LDE store forms, the only instructions that write external data memory (R105). -/
def StoresData (i : Instr) : Prop := ∃ f r, i = Space.data.store f r

/-! ### What a step changes -/

/-- A location that is there: RF_MAP does not class it as not implemented (10_state R27). -/
def Implemented (s : State) (a : Byte) : Prop := s.classOf a ≠ .absent

/-- What a list of byte writes, in their order, leaves at location `a` that held `old`. -/
def lastWritten (ws : List (Byte × Byte)) (a old : Byte) : Byte :=
  ws.foldl (fun v w => if w.1 = a then w.2 else v) old

/-- The byte stored at location `a` after a list of byte writes. A write to a platform register stores
nothing (10_state R27). -/
def after (s : State) (ws : List (Byte × Byte)) (a : Byte) : Byte :=
  if s.classOf a = .platform then s.reg a else lastWritten ws a (s.reg a)

/-- The output events of a list of byte writes: those to platform registers, in their order (R27). -/
def events (s : State) (ws : List (Byte × Byte)) : List OutputEvent :=
  (ws.filter fun w => s.classOf w.1 == .platform).map fun w => ⟨w.1, w.2⟩

/-- From `s` to `t` the register file takes exactly these byte writes, in this order: every other location
is as before, and the writes to platform registers are the output events. -/
structure Writes (s t : State) (ws : List (Byte × Byte)) : Prop where
  regs : ∀ a, t.reg a = after s ws a
  outputs : t.outputs = s.outputs ++ events s ws

/-- Every byte of the two memories is as before. -/
structure SameMemory (s t : State) : Prop where
  program : ∀ a, t.pmByte a = s.pmByte a
  written : t.pmWritten = s.pmWritten
  data : ∀ a, t.dmByte a = s.dmByte a

/-- The parameters, the environment's part of the state and the model's two counters are as before. -/
structure SameControl (s t : State) : Prop where
  cfg : t.cfg = s.cfg
  pending : t.pending = s.pending
  resetAsserted : t.resetAsserted = s.resetAsserted
  tick : t.tick = s.tick
  epoch : t.epoch = s.epoch

/-- From `s` to `t` the register file takes exactly the writes `ws`, pc becomes `pc`, and nothing else
changes. -/
structure Effect (s t : State) (ws : List (Byte × Byte)) (pc : Addr) : Prop where
  writes : Writes s t ws
  memory : SameMemory s t
  control : SameControl s t
  runState : t.runState = s.runState
  pc : t.pc = pc

/-- `F` is a FLAGS byte with C, Z, S, V as given in bits 7..4 (10_state R16) and the stored bits 3..0 of `s`
(R21: a flag writer leaves them as they were). -/
structure FlagsByte (s : State) (F : Byte) (c z n v : Bool) : Prop where
  carry : F.getLsbD 7 = c
  zero : F.getLsbD 6 = z
  sign : F.getLsbD 5 = n
  overflow : F.getLsbD 4 = v
  low : F.extractLsb' 0 4 = (s.reg flagsAddr).extractLsb' 0 4

/-- The instruction answers a next state in which its destination `dst` holds the result `r`, the flags are
as given, pc is past its `len` bytes, and nothing else has changed. -/
def Computes (i : Instr) (s : State) (len : Nat) (dst r : Byte) (c z n v : Bool) : Prop :=
  ∃ t F, exec i s = .next t ∧ Effect s t [(dst, r), (flagsAddr, F)] (s.pc + BitVec.ofNat 16 len) ∧
    FlagsByte s F c z n v

/-- The instruction answers a next state in which the flags are as given, pc is past its `len` bytes, and
nothing else has changed. -/
def SetsFlags (i : Instr) (s : State) (len : Nat) (c z n v : Bool) : Prop :=
  ∃ t F, exec i s = .next t ∧ Effect s t [(flagsAddr, F)] (s.pc + BitVec.ofNat 16 len) ∧
    FlagsByte s F c z n v

/-- The instruction answers a next state with exactly these register writes and this pc. -/
def Does (i : Instr) (s : State) (ws : List (Byte × Byte)) (pc : Addr) : Prop :=
  ∃ t, exec i s = .next t ∧ Effect s t ws pc

/-- `step` with the outcome's step counter taken back out: the machine's step, whose model counter `tick` has
moved on by one, leads to the state `u`. -/
def StepsTo (s u : State) : Prop := step s = .next { u with tick := u.tick + 1 }

/-- From `s` to `t` the byte `v` is stored at address `A` of one memory, pc becomes `pc`, and nothing else
changes: every other byte of both memories is as before. A store to program memory adds its address to those
written since reset (20_memory R50). -/
structure StoresByte (s t : State) (sp : Space) (A : Nat) (v : Byte) (pc : Addr) : Prop where
  regs : ∀ a, t.reg a = s.reg a
  outputs : t.outputs = s.outputs
  stored : ∀ b, sp.byte t b = if b = A then v else sp.byte s b
  program : sp = .data → ∀ b, t.pmByte b = s.pmByte b
  data : sp = .program → ∀ b, t.dmByte b = s.dmByte b
  written : ∀ b, b ∈ t.pmWritten ↔ b ∈ s.pmWritten ∨ (sp = .program ∧ b = A)
  control : SameControl s t
  runState : t.runState = s.runState
  pc : t.pc = pc

/-- From `s` to `t` the run state becomes `r`, pc becomes `pc`, and nothing else changes. -/
structure Halts (s t : State) (r : RunState) (pc : Addr) : Prop where
  writes : Writes s t []
  memory : SameMemory s t
  control : SameControl s t
  runState : t.runState = r
  pc : t.pc = pc

/-! ### Pushes -/

/-- The byte writes of pushing `bytes` in order (10_state R24: SP <- SP - 1 ; x[SP] <- v), after the writes
`ws` that stand before them. SP is read anew for each push, since a push may fall on SP itself (20_memory
R44). -/
def pushes (s : State) (ws : List (Byte × Byte)) : List Byte → List (Byte × Byte)
  | [] => ws
  | v :: rest =>
    let sp := after s ws spAddr - 1#8
    pushes s (ws ++ [(spAddr, sp), (sp, v)]) rest

/-- Every location these writes go to is there. -/
def AllImplemented (s : State) (ws : List (Byte × Byte)) : Prop := ∀ w ∈ ws, Implemented s w.1

/-- The first of these writes that goes to a location that is not there goes to `a`. -/
def FirstMissing (s : State) (ws : List (Byte × Byte)) (a : Byte) : Prop :=
  ∃ before v rest, ws = before ++ (a, v) :: rest ∧ AllImplemented s before ∧ s.classOf a = .absent

/-! ### Fetch -/

/-- The byte at address `a` can be fetched and is `b`: below PM_SIZE, and not written since reset (10_state
R14, 20_memory R50). -/
structure Fetchable (s : State) (a : Addr) (b : Byte) : Prop where
  inRange : a.toNat < s.cfg.pmSize.val
  unmodified : a.toNat ∉ s.pmWritten
  byte : s.pmByte a.toNat = b

/-- The bytes at pc can be fetched and are `bytes`. -/
def BytesAtPc (s : State) (bytes : List Byte) : Prop :=
  ∀ k, ∀ h : k < bytes.length, Fetchable s (s.pc + BitVec.ofNat 16 k) bytes[k]

/-- The next step fetches an instruction: running, no reset, no interrupt about to be taken (60_exceptions
R184). -/
structure FetchesNext (s : State) : Prop where
  running : s.runState = .running
  noReset : s.resetAsserted = false
  noInterrupt : s.interruptsEnabled = false ∨ s.pending = []

/-- A pending request releases the run state: any one in Idle mode, one marked external in Stop mode
(60_exceptions R194). -/
def Released (s : State) : Prop :=
  (s.runState = .idle ∧ s.pending ≠ []) ∨ (s.runState = .stop ∧ ∃ r ∈ s.pending, r.external = true)

/-- The next step takes an interrupt: no reset, SYM.2 = 1, and a request that is pending while the CPU runs, or
that releases Idle or Stop mode (60_exceptions R184, R185, R194). -/
structure TakesInterrupt (s : State) : Prop where
  noReset : s.resetAsserted = false
  enabled : s.interruptsEnabled = true
  request : (s.runState = .running ∧ s.pending ≠ []) ∨ Released s

/-- The stack bytes below SP are storage with no role of their own: the `n` locations a push sequence writes are
neither platform registers nor missing, nor FLAGS or SP. -/
def PlainStack (s : State) (n : Nat) : Prop :=
  ∀ k, 1 ≤ k → k ≤ n → ∀ a, a = s.sp - BitVec.ofNat 8 k →
    (s.classOf a = .plain ∨ s.classOf a = .control) ∧ a ≠ flagsAddr ∧ a ≠ spAddr

/-- The 58 opcode bytes of 30_encoding R71 that no instruction has. -/
def undefinedOpcodes : List Byte :=
  [0x40#8, 0x80#8, 0xA0#8, 0xF0#8, 0x31#8, 0x41#8, 0x81#8, 0xA1#8, 0xF1#8, 0x82#8, 0x92#8, 0xC2#8, 0xD2#8,
    0xF2#8, 0x83#8, 0x93#8, 0xF3#8, 0x84#8, 0x94#8, 0xC4#8, 0xD4#8, 0x85#8, 0x95#8, 0xC5#8, 0xD5#8, 0x86#8,
    0x96#8, 0xC6#8, 0x07#8, 0x17#8, 0x27#8, 0x37#8, 0x47#8, 0x57#8, 0x67#8, 0x77#8, 0x0A#8, 0x1A#8, 0x2A#8,
    0x3A#8, 0x4A#8, 0x5A#8, 0x6A#8, 0x7A#8, 0x8A#8, 0x9A#8, 0xAA#8, 0xBA#8, 0xCA#8, 0xDA#8, 0xEA#8, 0xFA#8,
    0x0F#8, 0x1F#8, 0x2F#8, 0x3F#8, 0x4F#8, 0x5F#8]

end Sys2Proof.Claims
end

