-- ==== Sys2Proof/Certificates/Slice0/Obligations.lean ====
section
/-! DEFINITION. The statements for the provers. Each docstring names the rule of spec/ it formalises. A
statement that rests on a decision of 92_eei_decisions.md (the spec's own choice where its source is silent)
says so. In every statement reading an operand means the machine's own read of a register-file location,
whose rule is RegisterReadByClass, so no form is shut out: FLAGS, platform registers and missing locations are
among the operands. Choices that many statements share, each the model's or a decision of the spec and not its
source's: a read of FLAGS leaves bits 3..0 free and a flag writer leaves the stored ones as they are (decision D7,
log 5); platform registers (decision D20, log 6); register-file addresses and SP wrap modulo 256 (decision D5, log
14), memory addresses and pc modulo 2^16 (decisions D2, D28, log 9); a stack access is an ordinary access to the
location it falls on (decision D21, log 27). -/

open Sys2Proof Sys2Proof.Machine Sys2Proof.Claims

/-! ### Encoding -/

/-- Every well-formed instruction, with every operand, decodes from its own encoding and leaves the bytes after
it unread (30_encoding R60, R61, R70; E5 and F5 under the assumption of decision D26, log 11). -/
def Obligations.DecodeAfterEncode : Prop :=
  ∀ (i : Instr) (rest : List Byte), i.wf = true → decode (encode i ++ rest) = .instr i rest

/-- Whatever decodes is well formed, and its bytes are exactly its encoding: no bit of the bytes is dropped
(30_encoding R60, R61, R68; E5 and F5 under the assumption of decision D26, log 11). -/
def Obligations.EncodeAfterDecode : Prop :=
  ∀ (bs rest : List Byte) (i : Instr), decode bs = .instr i rest → i.wf = true ∧ bs = encode i ++ rest

/-- Worked encodings that the spec prints decode to the instruction it prints for them: one for every form of LD,
POP, PUSH, CALL, JP, JR, RET, IRET and the stepping loads, for LDC and LDE all but the XL stores, and a few of the
other families (30_encoding R61, R70, and the rules of the instructions). NOT the source's, but the model's with the
spec's decisions: the byte order of the address in F6 15 21 and 7D 10 00 (decision D3, PRESUMED, log 10), the
direction of E5 00 02 and F5 02 00 (decision D26, PRESUMED, log 11), and the opcodes of 0C 10, 08 01 and 09 01
(decision D27, PRESUMED, log 12). -/
def Obligations.DecodeSpecWords : Prop :=
  -- the two-operand and one-operand forms
  decode [0x13#8, 0x12#8] = .instr (.adc_r_ir 1#4 2#4) [] ∧
  decode [0x14#8, 0x02#8, 0x01#8] = .instr (.adc_reg_reg 0x01#8 0x02#8) [] ∧
  decode [0x91#8, 0x01#8] = .instr (.rl_ireg 0x01#8) [] ∧
  decode [0xB1#8, 0x01#8] = .instr (.clr_ireg 0x01#8) [] ∧
  decode [0x50#8, 0x00#8] = .instr (.pop_reg 0x00#8) [] ∧
  decode [0x51#8, 0x00#8] = .instr (.pop_ireg 0x00#8) [] ∧
  decode [0x70#8, 0x40#8] = .instr (.push_reg 0x40#8) [] ∧
  decode [0x71#8, 0x40#8] = .instr (.push_ireg 0x40#8) [] ∧
  -- LD (40_load R101)
  decode [0x0C#8, 0x10#8] = .instr (.ld_r_im 0#4 0x10#8) [] ∧
  decode [0x08#8, 0x01#8] = .instr (.ld_r_reg 0#4 0x01#8) [] ∧
  decode [0x09#8, 0x01#8] = .instr (.ld_reg_r 0x01#8 0#4) [] ∧
  decode [0xC7#8, 0x10#8] = .instr (.ld_r_ir 1#4 0#4) [] ∧
  decode [0xD7#8, 0x01#8] = .instr (.ld_ir_r 0#4 1#4) [] ∧
  decode [0xE4#8, 0x01#8, 0x00#8] = .instr (.ld_reg_reg 0x00#8 0x01#8) [] ∧
  decode [0xE5#8, 0x00#8, 0x02#8] = .instr (.ld_reg_ireg 0x02#8 0x00#8) [] ∧
  decode [0xE6#8, 0x00#8, 0x0A#8] = .instr (.ld_reg_im 0x00#8 0x0A#8) [] ∧
  decode [0xD6#8, 0x00#8, 0x10#8] = .instr (.ld_ireg_im 0x00#8 0x10#8) [] ∧
  decode [0xF5#8, 0x02#8, 0x00#8] = .instr (.ld_ireg_reg 0x00#8 0x02#8) [] ∧
  decode [0x87#8, 0x01#8, 0x30#8] = .instr (.ld_r_x 0#4 0x30#8 1#4) [] ∧
  decode [0x97#8, 0x10#8, 0x30#8] = .instr (.ld_x_r 0x30#8 0#4 1#4) [] ∧
  -- LDC, LDE and the stepping loads (R102 to R109)
  decode [0xC3#8, 0x02#8] = .instr (.ldc_r_irr 0#4 1#3) [] ∧
  decode [0xE7#8, 0x04#8, 0x01#8] = .instr (.ldc_r_xs 0#4 0x01#8 2#3) [] ∧
  decode [0xA7#8, 0x02#8, 0x00#8, 0x10#8] = .instr (.ldc_r_xl 0#4 0x1000#16 1#3) [] ∧
  decode [0xA7#8, 0x00#8, 0x04#8, 0x11#8] = .instr (.ldc_r_da 0#4 0x1104#16) [] ∧
  decode [0xD3#8, 0x02#8] = .instr (.ldc_irr_r 1#3 0#4) [] ∧
  decode [0xF7#8, 0x04#8, 0x01#8] = .instr (.ldc_xs_r 0x01#8 2#3 0#4) [] ∧
  decode [0xB7#8, 0x00#8, 0x05#8, 0x11#8] = .instr (.ldc_da_r 0x1105#16 0#4) [] ∧
  decode [0xC3#8, 0x03#8] = .instr (.lde_r_irr 0#4 1#3) [] ∧
  decode [0xE7#8, 0x05#8, 0x01#8] = .instr (.lde_r_xs 0#4 0x01#8 2#3) [] ∧
  decode [0xA7#8, 0x03#8, 0x00#8, 0x10#8] = .instr (.lde_r_xl 0#4 0x1000#16 1#3) [] ∧
  decode [0xA7#8, 0x01#8, 0x04#8, 0x11#8] = .instr (.lde_r_da 0#4 0x1104#16) [] ∧
  decode [0xD3#8, 0x03#8] = .instr (.lde_irr_r 1#3 0#4) [] ∧
  decode [0xF7#8, 0x05#8, 0x01#8] = .instr (.lde_xs_r 0x01#8 2#3 0#4) [] ∧
  decode [0xB7#8, 0x01#8, 0x05#8, 0x11#8] = .instr (.lde_da_r 0x1105#16 0#4) [] ∧
  decode [0xE2#8, 0x86#8] = .instr (.ldcd_r_irr 8#4 3#3) [] ∧
  decode [0xE2#8, 0x87#8] = .instr (.lded_r_irr 8#4 3#3) [] ∧
  decode [0xE3#8, 0x86#8] = .instr (.ldci_r_irr 8#4 3#3) [] ∧
  decode [0xE3#8, 0x87#8] = .instr (.ldei_r_irr 8#4 3#3) [] ∧
  -- program control and CPU control
  decode [0xF6#8, 0x15#8, 0x21#8] = .instr (.call_da 0x1521#16) [] ∧
  decode [0xF4#8, 0xC0#8] = .instr (.call_ipair 0xC0#8) [] ∧
  decode [0xBF#8] = .instr .iret [] ∧
  decode [0x7D#8, 0x10#8, 0x00#8] = .instr (.jp_cc_da .c 0x1000#16) [] ∧
  decode [0x30#8, 0x00#8] = .instr (.jp_ipair 0x00#8) [] ∧
  decode [0x7B#8, 0x05#8] = .instr (.jr_cc_ra .c 0x05#8) [] ∧
  decode [0xAF#8] = .instr .ret [] ∧
  decode [0xEF#8] = .instr .ccf [] ∧
  decode [0x8F#8] = .instr .di [] ∧
  decode [0x9F#8] = .instr .ei [] ∧
  decode [0x6F#8] = .instr .idle [] ∧
  decode [0xDF#8] = .instr .scf []

/-- The first byte alone gives the length, 1 to 4 bytes (30_encoding R60, R69), except that the 58 undefined
opcode bytes, all different, are refused with no length guessed (R71; that they are refused is the spec's
decision D4, and that columns A and F hold some of them is general knowledge, log 12). -/
def Obligations.FirstByteGivesLength : Prop :=
  undefinedOpcodes.length = 58 ∧ undefinedOpcodes.Nodup ∧
  ∀ b : Byte,
    (b ∈ undefinedOpcodes ∧ ∀ rest, decode (b :: rest) = .illegalOpcode b) ∨
    (b ∉ undefinedOpcodes ∧ ∃ n, 1 ≤ n ∧ n ≤ 4 ∧
      (∀ rest : List Byte, rest.length + 1 < n → decode (b :: rest) = .truncated) ∧
      ∀ rest : List Byte, n ≤ rest.length + 1 →
        ∃ i : Instr, i.length = n ∧ decode (b :: rest) = .instr i (rest.drop (n - 1)))

/-- The shared operand-form sets: opcode, byte order and length of every two-operand form (30_encoding R75) and
of every one-operand form (R76). -/
def Obligations.OperandFormEncodings : Prop :=
  (∀ (op : Op2) (f : Form2), encode (op.instr f) = f.bytes op.nibble ∧ (op.instr f).length = f.len) ∧
  (∀ (op : Op1) (f : Form1), encode (op.instr f) = f.bytes op.nibble ∧ (op.instr f).length = 2)

/-! ### The step -/

/-- When the next step fetches and the bytes at pc are those of a well-formed instruction, the step is that
instruction's meaning, with the model's step counter moved on by one (60_exceptions R184 item 3, 30_encoding
R60; log 28 for the counter). -/
def Obligations.StepRunsDecoded : Prop :=
  ∀ (s : State) (i : Instr), i.wf = true → FetchesNext s → BytesAtPc s (encode i) →
    step s = match exec i s with
      | .next t => .next { t with tick := t.tick + 1 }
      | .fault f => .fault f
      | .refused r => .refused r

/-- A fetch stops at the first of the instruction's bytes that lies at or above PM_SIZE (10_state R14, decision
D2) or that was written since reset (20_memory R50, decision D9), and at an undefined opcode byte (30_encoding
R71, decision D4). -/
def Obligations.StepStopsAtBadFetch : Prop :=
  (∀ (s : State) (i : Instr) (k : Nat), i.wf = true → FetchesNext s → k < (encode i).length →
    (∀ j, ∀ h : j < (encode i).length, j < k →
      Fetchable s (s.pc + BitVec.ofNat 16 j) ((encode i)[j])) →
    let a := s.pc + BitVec.ofNat 16 k
    (s.cfg.pmSize.val ≤ a.toNat → step s = .fault (.addressOutOfRange a)) ∧
    (a.toNat < s.cfg.pmSize.val → a.toNat ∈ s.pmWritten → step s = .fault (.fetchOfModifiedCode a))) ∧
  (∀ (s : State) (b : Byte), FetchesNext s → Fetchable s s.pc b → b ∈ undefinedOpcodes →
    step s = .fault (.illegalOpcode b))

/-! ### Registers and addresses -/

/-- Reading a register-file location: storage gives its byte; FLAGS gives its four flags, with nothing said of
bits 3..0 (10_state R21, decision D7, log 5); any location that is there can be read, a platform register too
(R27, decision D20, log 6); one that is not stops (R27, decision D20). -/
def Obligations.RegisterReadByClass : Prop :=
  ∀ (s : State) (k : Nat) (a : Byte),
    (s.classOf a = .absent → s.read k a = .error (.unimplementedRegister a)) ∧
    (s.classOf a ≠ .absent → ∃ v, s.read k a = .ok v) ∧
    (a ≠ flagsAddr → (s.classOf a = .plain ∨ s.classOf a = .control) → s.read k a = .ok (s.reg a)) ∧
    ∃ v, s.read k flagsAddr = .ok v ∧ v.extractLsb' 4 4 = (s.reg flagsAddr).extractLsb' 4 4

/-- Reading back after a write: storage returns the last value written (20_memory R44), FLAGS its upper four bits
(10_state R21; bits 3..0 are free, decision D7, log 5), a write to a platform register is an output event (R27,
decision D20, log 6), a location that is not there cannot be written (R27, decision D20), and every other location
reads as before. That a platform register reads the same free value as without the write, and another location the
same free value as before, is the MODEL's indexing of free values by step and read (logs 6 and 28), not R27's. -/
def Obligations.RegisterReadBack : Prop :=
  ∀ (s : State) (a v : Byte),
    (s.classOf a = .absent → s.write a v = .error (.unimplementedRegister a)) ∧
    (s.classOf a ≠ .absent → ∃ t, s.write a v = .ok t ∧
      (∀ k b, b ≠ a → t.read k b = s.read k b) ∧
      (a ≠ flagsAddr → (s.classOf a = .plain ∨ s.classOf a = .control) → ∀ k, t.read k a = .ok v) ∧
      (a = flagsAddr → ∀ k, ∃ x, t.read k a = .ok x ∧ x.extractLsb' 4 4 = v.extractLsb' 4 4) ∧
      (s.classOf a = .platform → (∀ k, t.read k a = s.read k a) ∧ t.outputs = s.outputs ++ [⟨a, v⟩]))

/-- The working registers are sixteen different locations, Rn at WR_BASE + n (10_state R11; modulo 256, decision D5,
log 14), always storage (93_implementation_defined U20; DEDUCED, log 23); a pair is its even register and the odd
one after it (30_encoding R64). The addresses of Irr, XS and XL are the pair's 16 bits, high byte in the even
register, plus nothing, the sign-extended byte, or the 16-bit offset (R64, R65; modulo 2^16, 20_memory R53, decision
D2, log 9). -/
def Obligations.WorkingRegistersAndAddresses : Prop :=
  ∀ (s : State),
    (∀ n : WReg, (s.wr n).toNat = (s.cfg.wrBase.toNat + n.toNat) % 256 ∧
      (s.classOf (s.wr n) = .plain ∨ s.classOf (s.wr n) = .control)) ∧
    (∀ n m : WReg, s.wr n = s.wr m → n = m) ∧
    (∀ p : Pair, s.pairAddr p = s.wr (p ++ 0#1) ∧ s.pairAddr p + 1#8 = s.wr (p ++ 1#1)) ∧
    ∀ p : Pair, ∃ hi lo, s.read 0 (s.wr (p ++ 0#1)) = .ok hi ∧ s.read 1 (s.wr (p ++ 1#1)) = .ok lo ∧
      s.addrIrr p = .ok (hi ++ lo) ∧
      (∀ xs, s.addrXs xs p = .ok ((hi ++ lo) + xs.signExtend 16)) ∧
      ∀ xl, s.addrXl xl p = .ok ((hi ++ lo) + xl)

/-! ### Arithmetic -/

/-- ADD (41_arithmetic R122, R120): the byte sum, C the carry, V set if both operands have the same sign and
the result the opposite one; nothing else changes. FLAGS as destination is FlagWritersStopOnFlags. -/
def Obligations.AddResult : Prop :=
  ∀ (s : State) (f : Form2) (v d : Byte),
    f.dst s ≠ flagsAddr → f.src s = .ok v → s.read 2 (f.dst s) = .ok d →
    let sum := d.toNat + v.toNat
    let r := BitVec.ofNat 8 sum
    Computes (Op2.add.instr f) s f.len (f.dst s) r
      (decide (256 ≤ sum)) (decide (r = 0#8)) r.msb (d.msb == v.msb && r.msb != d.msb)

/-- ADC (41_arithmetic R121, R120): as ADD, with the old C added. -/
def Obligations.AdcResult : Prop :=
  ∀ (s : State) (f : Form2) (v d : Byte),
    f.dst s ≠ flagsAddr → f.src s = .ok v → s.read 2 (f.dst s) = .ok d →
    let sum := d.toNat + v.toNat + (if s.flags.c then 1 else 0)
    let r := BitVec.ofNat 8 sum
    Computes (Op2.adc.instr f) s f.len (f.dst s) r
      (decide (256 ≤ sum)) (decide (r = 0#8)) r.msb (d.msb == v.msb && r.msb != d.msb)

/-- SUB (41_arithmetic R127, R120): the byte difference, C the borrow, V set if the operands have opposite
signs and the result has the source's; nothing else changes. -/
def Obligations.SubResult : Prop :=
  ∀ (s : State) (f : Form2) (v d : Byte),
    f.dst s ≠ flagsAddr → f.src s = .ok v → s.read 2 (f.dst s) = .ok d →
    let diff : Int := (d.toNat : Int) - v.toNat
    let r := BitVec.ofInt 8 diff
    Computes (Op2.sub.instr f) s f.len (f.dst s) r
      (decide (diff < 0)) (decide (r = 0#8)) r.msb (d.msb != v.msb && r.msb == v.msb)

/-- SBC (41_arithmetic R126, R120): as SUB, with the old C subtracted too; C after it is a borrow
(90_conflicts C14). -/
def Obligations.SbcResult : Prop :=
  ∀ (s : State) (f : Form2) (v d : Byte),
    f.dst s ≠ flagsAddr → f.src s = .ok v → s.read 2 (f.dst s) = .ok d →
    let diff : Int := (d.toNat : Int) - v.toNat - (if s.flags.c then 1 else 0)
    let r := BitVec.ofInt 8 diff
    Computes (Op2.sbc.instr f) s f.len (f.dst s) r
      (decide (diff < 0)) (decide (r = 0#8)) r.msb (d.msb != v.msb && r.msb == v.msb)

/-- CP (41_arithmetic R123, R120): opcodes A2 to A6; the flags of the subtraction, and nothing else changes, so
the contents of both operands are unaffected (FLAGS, where it is an operand, keeps its bits 3..0). FLAGS as
destination is allowed. -/
def Obligations.CpResult : Prop :=
  ∀ (s : State) (f : Form2), encode (Op2.cp.instr f) = f.bytes 0xA#4 ∧
    ∀ v d : Byte, f.src s = .ok v → s.read 2 (f.dst s) = .ok d →
    let diff : Int := (d.toNat : Int) - v.toNat
    let r := BitVec.ofInt 8 diff
    SetsFlags (Op2.cp.instr f) s f.len
      (decide (diff < 0)) (decide (r = 0#8)) r.msb (d.msb != v.msb && r.msb == v.msb)

/-- INC and DEC (41_arithmetic R125, R124), forms R and IR, and the one-byte INC r (whose opcode rE is
general knowledge, decision D27, log 12): C is unaffected, V is set when the operand was 7FH (INC) or 80H (DEC). -/
def Obligations.IncDecResult : Prop :=
  (∀ (s : State) (f : Form1) (a d : Byte),
    f.loc s = .ok a → a ≠ flagsAddr → s.read 2 a = .ok d →
    Computes (Op1.inc.instr f) s 2 a (d + 1#8)
      s.flags.c (decide (d + 1#8 = 0#8)) (d + 1#8).msb (decide (d = 0x7F#8)) ∧
    Computes (Op1.dec.instr f) s 2 a (d - 1#8)
      s.flags.c (decide (d - 1#8 = 0#8)) (d - 1#8).msb (decide (d = 0x80#8))) ∧
  (∀ n : WReg, encode (.inc_r n) = [n ++ 0xE#4]) ∧
  (∀ (s : State) (n : WReg) (d : Byte), s.wr n ≠ flagsAddr → s.read 2 (s.wr n) = .ok d →
    Computes (.inc_r n) s 1 (s.wr n) (d + 1#8)
      s.flags.c (decide (d + 1#8 = 0#8)) (d + 1#8).msb (decide (d = 0x7F#8)))

/-- The V of an addition or subtraction says exactly that the signed result lies outside -128 to +127, with
carry-in or without (41_arithmetic R120, R128, an inference the spec marks as derived). -/
def Obligations.OverflowIsSignedRange : Prop :=
  ∀ (a b : Byte) (c : Bool),
    ((add8 a b c).ovf = true ↔
      (a.toInt + b.toInt + (if c then 1 else 0) < -128 ∨ 127 < a.toInt + b.toInt + (if c then 1 else 0))) ∧
    ((sub8 a b c).ovf = true ↔
      (a.toInt - b.toInt - (if c then 1 else 0) < -128 ∨ 127 < a.toInt - b.toInt - (if c then 1 else 0)))

/-- Multiple precision (41_arithmetic R121, R126, R128): ADD on the low bytes and then ADC on the high bytes
adds two 16-bit numbers, with the carry of the whole sum; SUB and SBC subtract them, with the borrow. -/
def Obligations.MultiplePrecision : Prop :=
  ∀ (x y : Addr) (f : Flags),
    (let lo := aluAdd (loByte x) (loByte y) f
     let hi := aluAdc (hiByte x) (hiByte y) lo.2
     word16 hi.1 lo.1 = x + y ∧ hi.2.c = decide (65536 ≤ x.toNat + y.toNat)) ∧
    (let lo := aluSub (loByte x) (loByte y) f
     let hi := aluSbc (hiByte x) (hiByte y) lo.2
     word16 hi.1 lo.1 = x - y ∧ hi.2.c = decide (x.toNat < y.toNat))

/-! ### Logic and bit tests -/

/-- AND, OR and XOR (42_logic R130, R132, R133): the bitwise result, C unaffected, V cleared. -/
def Obligations.LogicResult : Prop :=
  ∀ (s : State) (f : Form2) (v d : Byte),
    f.dst s ≠ flagsAddr → f.src s = .ok v → s.read 2 (f.dst s) = .ok d →
    Computes (Op2.and.instr f) s f.len (f.dst s) (d &&& v)
      s.flags.c (decide (d &&& v = 0#8)) (d &&& v).msb false ∧
    Computes (Op2.or.instr f) s f.len (f.dst s) (d ||| v)
      s.flags.c (decide (d ||| v = 0#8)) (d ||| v).msb false ∧
    Computes (Op2.xor.instr f) s f.len (f.dst s) (d ^^^ v)
      s.flags.c (decide (d ^^^ v = 0#8)) (d ^^^ v).msb false

/-- COM (42_logic R131): one's complement, C unaffected, V cleared. -/
def Obligations.ComResult : Prop :=
  ∀ (s : State) (f : Form1) (a d : Byte),
    f.loc s = .ok a → a ≠ flagsAddr → s.read 2 a = .ok d →
    Computes (Op1.com.instr f) s 2 a (~~~d) s.flags.c (decide (~~~d = 0#8)) (~~~d).msb false

/-- TCM and TM (44_bit_manipulation R150, R151): opcodes 62 to 66 and 72 to 76; only the flags change. Z after
TCM says that every bit the mask selects is 1, Z after TM that every one of them is 0. FLAGS as destination is
allowed. -/
def Obligations.BitTestResult : Prop :=
  (∀ (s : State) (f : Form2),
    encode (Op2.tcm.instr f) = f.bytes 0x6#4 ∧ encode (Op2.tm.instr f) = f.bytes 0x7#4 ∧
    ∀ v d : Byte, f.src s = .ok v → s.read 2 (f.dst s) = .ok d →
    SetsFlags (Op2.tcm.instr f) s f.len
      s.flags.c (decide (~~~d &&& v = 0#8)) (~~~d &&& v).msb false ∧
    SetsFlags (Op2.tm.instr f) s f.len
      s.flags.c (decide (d &&& v = 0#8)) (d &&& v).msb false) ∧
  ∀ d v : Byte,
    (~~~d &&& v = 0#8 ↔ ∀ k, k < 8 → v.getLsbD k = true → d.getLsbD k = true) ∧
    (d &&& v = 0#8 ↔ ∀ k, k < 8 → v.getLsbD k = true → d.getLsbD k = false)

/-! ### Rotates and the shift -/

/-- RL and RR (45_rotate_shift R155, R157), bit by bit as the Operation lines say: the bit that leaves enters at
the other end and is the new C; V is set if the sign changed. -/
def Obligations.RotateResult : Prop :=
  ∀ (s : State) (f : Form1) (a d : Byte),
    f.loc s = .ok a → a ≠ flagsAddr → s.read 2 a = .ok d →
    (∃ r : Byte, r.getLsbD 0 = d.getLsbD 7 ∧ (∀ n, n < 7 → r.getLsbD (n + 1) = d.getLsbD n) ∧
      Computes (Op1.rl.instr f) s 2 a r (d.getLsbD 7) (decide (r = 0#8)) r.msb (r.msb != d.msb)) ∧
    (∃ r : Byte, r.getLsbD 7 = d.getLsbD 0 ∧ (∀ n, n < 7 → r.getLsbD n = d.getLsbD (n + 1)) ∧
      Computes (Op1.rr.instr f) s 2 a r (d.getLsbD 0) (decide (r = 0#8)) r.msb (r.msb != d.msb))

/-- RLC and RRC (45_rotate_shift R156, R158): the rotate goes through C, whose old value enters the byte. -/
def Obligations.RotateThroughCarryResult : Prop :=
  ∀ (s : State) (f : Form1) (a d : Byte),
    f.loc s = .ok a → a ≠ flagsAddr → s.read 2 a = .ok d →
    (∃ r : Byte, r.getLsbD 0 = s.flags.c ∧ (∀ n, n < 7 → r.getLsbD (n + 1) = d.getLsbD n) ∧
      Computes (Op1.rlc.instr f) s 2 a r (d.getLsbD 7) (decide (r = 0#8)) r.msb (r.msb != d.msb)) ∧
    (∃ r : Byte, r.getLsbD 7 = s.flags.c ∧ (∀ n, n < 7 → r.getLsbD n = d.getLsbD (n + 1)) ∧
      Computes (Op1.rrc.instr f) s 2 a r (d.getLsbD 0) (decide (r = 0#8)) r.msb (r.msb != d.msb))

/-- SRA (45_rotate_shift R159): bit 7 stays and is copied into bit 6, bit 0 goes to C, V is cleared; as signed
arithmetic it is the floor of half the operand. -/
def Obligations.SraResult : Prop :=
  ∀ (s : State) (f : Form1) (a d : Byte),
    f.loc s = .ok a → a ≠ flagsAddr → s.read 2 a = .ok d →
    ∃ r : Byte, r.getLsbD 7 = d.getLsbD 7 ∧ (∀ n, n < 7 → r.getLsbD n = d.getLsbD (n + 1)) ∧
      r.toInt = d.toInt / 2 ∧
      Computes (Op1.sra.instr f) s 2 a r (d.getLsbD 0) (decide (r = 0#8)) r.msb false

/-! ### Where operands stop an instruction -/

/-- An instruction that writes its destination and a flag stops when that destination is FLAGS, in every form
(10_state R22; the fault is the spec's decision D8, log 16). -/
def Obligations.FlagWritersStopOnFlags : Prop :=
  (∀ (s : State) (op : Op2) (f : Form2), op ∈ [.add, .adc, .sub, .sbc, .or, .and, .xor] →
    f.dst s = flagsAddr → exec (op.instr f) s = .fault .unpredictable) ∧
  (∀ (s : State) (op : Op1) (f : Form1), op ∈ [.dec, .inc, .com, .rl, .rlc, .rr, .rrc, .sra] →
    f.loc s = .ok flagsAddr → exec (op.instr f) s = .fault .unpredictable) ∧
  (∀ (s : State) (n : WReg), s.wr n = flagsAddr → exec (.inc_r n) s = .fault .unpredictable)

/-- An operand, a pointer or a destination at a location that is not there stops the instruction (10_state R27,
decision D20), for every two-operand and one-operand form and every form of LD (E5 and F5 under the assumption
of decision D26, log 11). -/
def Obligations.MissingLocationsStop : Prop :=
  (∀ (s : State) (op : Op2) (f : Form2) (e : Fault),
    (op ∈ [.tcm, .tm, .cp] ∨ f.dst s ≠ flagsAddr) →
    (f.src s = .error e ∨ ∃ v, f.src s = .ok v ∧ s.read 2 (f.dst s) = .error e) →
    exec (op.instr f) s = .fault e) ∧
  (∀ (s : State) (op : Op1) (f : Form1) (e : Fault), f.loc s = .error e →
    exec (op.instr f) s = .fault e) ∧
  (∀ (s : State) (op : Op1) (f : Form1) (a : Byte), f.loc s = .ok a → s.classOf a = .absent →
    (op = .pop → ∃ v, s.read 1 (s.sp) = .ok v) → exec (op.instr f) s = .fault (.unimplementedRegister a)) ∧
  (∀ (s : State) (f : LdForm) (e : Fault),
    (f.dst s = .error e ∨ ∃ a, f.dst s = .ok a ∧ f.src s = .error e) → exec f.instr s = .fault e) ∧
  ∀ (s : State) (f : LdForm) (a v : Byte), f.dst s = .ok a → f.src s = .ok v → s.classOf a = .absent →
    exec f.instr s = .fault (.unimplementedRegister a)

/-- A stack access or a pair at a location that is not there stops the instruction at its first such access
(10_state R27, decision D20, log 6; stack accesses are ordinary accesses and SP wraps, 20_memory R44 and R52,
decisions D21 and D5, logs 27 and 14): the push of PUSH; either push of CALL, direct or through a pair; the three
pushes of an interrupt (60_exceptions R185, decision D11, log 19); the pop of POP, each pop of RET and of IRET; and
the high or low byte of the pair of JP @ and CALL @. -/
def Obligations.MissingStackStops : Prop :=
  (∀ (s : State) (f : Form1) (a v : Byte), f.loc s = .ok a → a ≠ spAddr → s.read 1 a = .ok v →
    s.classOf (s.sp - 1#8) = .absent →
    exec (Op1.push.instr f) s = .fault (.unimplementedRegister (s.sp - 1#8))) ∧
  (∀ (s : State) (target : Addr) (x : Byte),
    let npc := s.pc + 3#16
    FirstMissing s (pushes s [] [npc.extractLsb' 0 8, npc.extractLsb' 8 8]) x →
    exec (.call_da target) s = .fault (.unimplementedRegister x)) ∧
  (∀ (s : State) (a hi lo x : Byte), a.getLsbD 0 = false →
    (∀ b, b = a ∨ b = a + 1#8 → b ≠ spAddr ∧ b ≠ s.sp - 1#8 ∧ b ≠ s.sp - 2#8) →
    s.read 0 a = .ok hi → s.read 1 (a + 1#8) = .ok lo →
    let npc := s.pc + 2#16
    FirstMissing s (pushes s [] [npc.extractLsb' 0 8, npc.extractLsb' 8 8]) x →
    exec (.call_ipair a) s = .fault (.unimplementedRegister x)) ∧
  (∀ (s : State) (x : Byte), TakesInterrupt s →
    FirstMissing s (pushes s [] [s.pc.extractLsb' 0 8, s.pc.extractLsb' 8 8, 0#8]) x →
    step s = .fault (.unimplementedRegister x)) ∧
  (∀ (s : State) (f : Form1) (a : Byte), f.loc s = .ok a → a ≠ spAddr →
    s.classOf (s.sp) = .absent →
    exec (Op1.pop.instr f) s = .fault (.unimplementedRegister (s.sp))) ∧
  (∀ (s : State) (k : Nat), k < 2 → (∀ j, j < k → Implemented s (s.sp + BitVec.ofNat 8 j)) →
    s.classOf (s.sp + BitVec.ofNat 8 k) = .absent →
    exec .ret s = .fault (.unimplementedRegister (s.sp + BitVec.ofNat 8 k))) ∧
  (∀ (s : State) (k : Nat), k < 3 → (∀ j, j < k → Implemented s (s.sp + BitVec.ofNat 8 j)) →
    s.classOf (s.sp + BitVec.ofNat 8 k) = .absent →
    exec .iret s = .fault (.unimplementedRegister (s.sp + BitVec.ofNat 8 k))) ∧
  (∀ (s : State) (a : Byte) (e : Fault), a.getLsbD 0 = false →
    (s.read 0 a = .error e ∨ ∃ v, s.read 0 a = .ok v ∧ s.read 1 (a + 1#8) = .error e) →
    exec (.jp_ipair a) s = .fault e) ∧
  ∀ (s : State) (a : Byte) (e : Fault), a.getLsbD 0 = false →
    (∀ b, b = a ∨ b = a + 1#8 → b ≠ spAddr ∧ b ≠ s.sp - 1#8 ∧ b ≠ s.sp - 2#8) →
    (s.read 0 a = .error e ∨ ∃ v, s.read 0 a = .ok v ∧ s.read 1 (a + 1#8) = .error e) →
    exec (.call_ipair a) s = .fault e

/-! ### Conditions -/

/-- The sixteen conditions, with the value of each in the instruction's cc field (43_program_control R140, Table
6-6); one with bit 3 of the field set is the negation of the one with bit 3 clear. -/
def Obligations.ConditionTable : Prop :=
  (∀ f : Flags,
    cond (condOfBits 0x0#4) f = false ∧
    cond (condOfBits 0x1#4) f = (f.s ^^ f.v) ∧
    cond (condOfBits 0x2#4) f = (f.z || (f.s ^^ f.v)) ∧
    cond (condOfBits 0x3#4) f = (f.c || f.z) ∧
    cond (condOfBits 0x4#4) f = f.v ∧
    cond (condOfBits 0x5#4) f = f.s ∧
    cond (condOfBits 0x6#4) f = f.z ∧
    cond (condOfBits 0x7#4) f = f.c ∧
    cond (condOfBits 0x8#4) f = true ∧
    cond (condOfBits 0x9#4) f = !(f.s ^^ f.v) ∧
    cond (condOfBits 0xA#4) f = !(f.z || (f.s ^^ f.v)) ∧
    cond (condOfBits 0xB#4) f = (!f.c && !f.z) ∧
    cond (condOfBits 0xC#4) f = !f.v ∧
    cond (condOfBits 0xD#4) f = !f.s ∧
    cond (condOfBits 0xE#4) f = !f.z ∧
    cond (condOfBits 0xF#4) f = !f.c) ∧
  ∀ (n : BitVec 4) (f : Flags), cond (condOfBits (n ^^^ 0x8#4)) f = !cond (condOfBits n) f

/-- After CP the conditions compare destination with source: LT, LE, GE, GT as signed numbers, ULT, ULE, UGE,
UGT as unsigned ones, EQ and NE for equality (43_program_control R140, 41_arithmetic R123: an inference the spec
marks as derived). -/
def Obligations.CompareConditions : Prop :=
  ∀ (s : State) (f : Form2) (v d : Byte), f.src s = .ok v → s.read 2 (f.dst s) = .ok d →
    ∃ t, exec (Op2.cp.instr f) s = .next t ∧
      cond .lt t.flags = decide (d.toInt < v.toInt) ∧ cond .le t.flags = decide (d.toInt ≤ v.toInt) ∧
      cond .ge t.flags = decide (v.toInt ≤ d.toInt) ∧ cond .gt t.flags = decide (v.toInt < d.toInt) ∧
      cond .c t.flags = decide (d.toNat < v.toNat) ∧ cond .ule t.flags = decide (d.toNat ≤ v.toNat) ∧
      cond .nc t.flags = decide (v.toNat ≤ d.toNat) ∧ cond .ugt t.flags = decide (v.toNat < d.toNat) ∧
      cond .z t.flags = decide (d = v) ∧ cond .nz t.flags = decide (d ≠ v)

/-! ### Loads -/

/-- CLR (40_load R100): opcodes B0 and B1; the location is cleared and nothing else changes. At FLAGS it clears
all flags. -/
def Obligations.ClrResult : Prop :=
  ∀ (s : State) (f : Form1), encode (Op1.clr.instr f) = f.bytes 0xB#4 ∧
    ∀ a : Byte, f.loc s = .ok a → Implemented s a →
      Does (Op1.clr.instr f) s [(a, 0#8)] (s.pc + 2#16)

/-- LD in the ten forms whose direction the spec's source fixes (40_load R101; the opcodes of LD r,IM, LD r,R and
LD R,r are general knowledge, decision D27, log 12): its bytes; the byte goes to the location and nothing else
changes; at FLAGS it sets the flags, all eight bits (decision D7, log 5), at SP the stack pointer. An index wraps
modulo 256 (decision D5, log 14). -/
def Obligations.LdResult : Prop :=
  ∀ (s : State) (f : LdForm), f.presumedDirection = false →
    encode f.instr = f.bytes ∧
    ∀ a v : Byte, f.dst s = .ok a → f.src s = .ok v → Implemented s a →
      Does f.instr s [(a, v)] (s.pc + BitVec.ofNat 16 f.len)

/-- LD R,IR (E5) and LD IR,R (F5), UNDER THE ASSUMPTION of 92_eei_decisions D26, general knowledge and not the
source's (log 11), that E5 loads through a pointer and F5 stores through one: the bytes, source first, and the
effect. -/
def Obligations.LdPresumedDirection : Prop :=
  (∀ d a : Byte,
    encode (.ld_reg_ireg d a) = [0xE5#8, a, d] ∧ decode [0xE5#8, a, d] = .instr (.ld_reg_ireg d a) [] ∧
    encode (.ld_ireg_reg d a) = [0xF5#8, a, d] ∧ decode [0xF5#8, a, d] = .instr (.ld_ireg_reg d a) []) ∧
  ∀ (s : State) (f : LdForm) (a v : Byte), f.presumedDirection = true →
    f.dst s = .ok a → f.src s = .ok v → Implemented s a →
    Does f.instr s [(a, v)] (s.pc + BitVec.ofNat 16 f.len)

/-- LDC and LDE, the load forms (40_load R102, R104): their bytes; one byte of program or external data memory below
PM_SIZE or DM_SIZE goes to the working register, and nothing else changes. An address wraps modulo 2^16 (20_memory
R53, decision D2, log 9). -/
def Obligations.MemoryLoadResult : Prop :=
  (∀ (sp : Space) (d : WReg) (f : MemForm), encode (sp.load d f) = f.loadOpcode :: f.operandBytes sp d) ∧
  ∀ (sp : Space) (s : State) (d : WReg) (f : MemForm) (A : Addr),
    f.addr s = .ok A → A.toNat < sp.size s →
    Does (sp.load d f) s [(s.wr d, sp.byte s A.toNat)] (s.pc + BitVec.ofNat 16 f.len)

/-- LDC and LDE, the store forms (40_load R103, R105): their bytes; the working register goes to the one byte of the
memory at the form's address, where PM_WRITABLE lets LDC store (decision D9, log 18), and nothing else changes. An
address wraps modulo 2^16 (20_memory R53, decision D2, log 9). -/
def Obligations.MemoryStoreResult : Prop :=
  (∀ (sp : Space) (r : WReg) (f : MemForm), encode (sp.store f r) = f.storeOpcode :: f.operandBytes sp r) ∧
  ∀ (sp : Space) (s : State) (r : WReg) (f : MemForm) (A : Addr) (v : Byte),
    f.addr s = .ok A → s.read 2 (s.wr r) = .ok v → A.toNat < sp.size s →
    (sp = .program → s.cfg.pmWritable = true) →
    ∃ t, exec (sp.store f r) s = .next t ∧
      StoresByte s t sp A.toNat v (s.pc + BitVec.ofNat 16 f.len)

/-- LDCD, LDED, LDCI and LDEI (40_load R106 to R109): their bytes; with the destination outside the address pair,
the byte goes to the working register and the whole 16-bit pair goes down or up by one. -/
def Obligations.LoadStepResult : Prop :=
  (∀ (sp : Space) (d : WReg) (p : Pair),
    encode (sp.loadStep false d p) = [0xE2#8, d ++ (p ++ sp.bit)] ∧
    encode (sp.loadStep true d p) = [0xE3#8, d ++ (p ++ sp.bit)]) ∧
  ∀ (sp : Space) (up : Bool) (s : State) (d : WReg) (p : Pair) (A : Addr),
    s.wr d ≠ s.pairAddr p → s.wr d ≠ s.pairAddr p + 1#8 → s.addrIrr p = .ok A → A.toNat < sp.size s →
    let B := if up then A + 1#16 else A - 1#16
    Does (sp.loadStep up d p) s
      [(s.wr d, sp.byte s A.toNat), (s.pairAddr p, B.extractLsb' 8 8),
        (s.pairAddr p + 1#8, B.extractLsb' 0 8)] (s.pc + 2#16)

/-- Where LDC, LDE and their stepping kin stop: an address at or above PM_SIZE or DM_SIZE (20_memory R53,
decisions D2, D10), and any LDC store where PM_WRITABLE is false (R50, decision D9), which is looked at first
(40_load R103). -/
def Obligations.MemoryAccessStops : Prop :=
  (∀ (sp : Space) (s : State) (r : WReg) (f : MemForm) (A : Addr),
    f.addr s = .ok A → sp.size s ≤ A.toNat →
    exec (sp.load r f) s = .fault (.addressOutOfRange A) ∧
    ((sp = .program → s.cfg.pmWritable = true) →
      exec (sp.store f r) s = .fault (.addressOutOfRange A))) ∧
  (∀ (s : State) (r : WReg) (f : MemForm), s.cfg.pmWritable = false →
    exec (Space.program.store f r) s = .fault .progMemWriteUnsupported) ∧
  ∀ (sp : Space) (up : Bool) (s : State) (d : WReg) (p : Pair) (A : Addr),
    s.wr d ≠ s.pairAddr p → s.wr d ≠ s.pairAddr p + 1#8 → s.addrIrr p = .ok A → sp.size s ≤ A.toNat →
    exec (sp.loadStep up d p) s = .fault (.addressOutOfRange A)

/-! ### The stack -/

/-- POP (40_load R110) to any location but SP: the byte at the top of the stack goes to the destination and SP
goes up by one, modulo 256 (decision D5, log 14); at FLAGS it restores the flags, all eight bits (decision D7, log
5). The stack location is read as any other, whatever it is (20_memory R44, decision D21, log 27). -/
def Obligations.PopResult : Prop :=
  ∀ (s : State) (f : Form1) (a v : Byte),
    f.loc s = .ok a → a ≠ spAddr → s.read 1 (s.sp) = .ok v → Implemented s a →
    Does (Op1.pop.instr f) s [(a, v), (spAddr, s.sp + 1#8)] (s.pc + 2#16)

/-- PUSH (40_load R111) of any location but SP: SP goes down by one, modulo 256 (decision D5, log 14), and
the byte goes to the location it then addresses, whatever that is (20_memory R44, decision D21, log 27). -/
def Obligations.PushResult : Prop :=
  ∀ (s : State) (f : Form1) (a v : Byte),
    f.loc s = .ok a → a ≠ spAddr → s.read 1 a = .ok v → Implemented s (s.sp - 1#8) →
    Does (Op1.push.instr f) s
      [(spAddr, s.sp - 1#8), (s.sp - 1#8, v)] (s.pc + 2#16)

/-- The stops on special operands: POP into SP and PUSH of SP (40_load R110, R111, decision D21), a destination
in its own address pair (R106 to R109, decision D29), an odd pair of JP @ or CALL @ (30_encoding R64, decision
D6), a CALL @ pair that meets SP or the two bytes it is about to push (43_program_control R141, decision D30). -/
def Obligations.SpecialOperandStops : Prop :=
  (∀ (s : State) (f : Form1), f.loc s = .ok spAddr →
    exec (Op1.pop.instr f) s = .fault .unpredictable ∧ exec (Op1.push.instr f) s = .fault .unpredictable) ∧
  (∀ (sp : Space) (up : Bool) (s : State) (d : WReg) (p : Pair),
    (s.wr d = s.pairAddr p ∨ s.wr d = s.pairAddr p + 1#8) →
    exec (sp.loadStep up d p) s = .fault .unpredictable) ∧
  (∀ (s : State) (a : Byte), a.getLsbD 0 = true →
    exec (.jp_ipair a) s = .fault (.oddRegisterPair a) ∧
    exec (.call_ipair a) s = .fault (.oddRegisterPair a)) ∧
  ∀ (s : State) (a b : Byte), a.getLsbD 0 = false → (b = a ∨ b = a + 1#8) →
    (b = spAddr ∨ b = s.sp - 1#8 ∨ b = s.sp - 2#8) →
    exec (.call_ipair a) s = .fault .unpredictable

/-! ### Transfers of control -/

/-- CALL (43_program_control R141), opcodes F6 and F4: PCL and then PCH of the address after the CALL are pushed,
and pc takes the target, which CALL @ reads from its even pair first (decision D30, log 17). That a push which falls
on SP, FLAGS, SYM or I/O is an ordinary access is the spec's decision D21 (20_memory R44, log 27), that SP wraps
modulo 256 its decision D5 (log 14), and the byte order of the address in the direct form its decision D3 (log
10, PRESUMED). -/
def Obligations.CallResult : Prop :=
  (∀ (target : Addr) (a : Byte),
    encode (.call_da target) = [0xF6#8, target.extractLsb' 8 8, target.extractLsb' 0 8] ∧
    encode (.call_ipair a) = [0xF4#8, a]) ∧
  (∀ (s : State) (target : Addr),
    let npc := s.pc + 3#16
    let ws := pushes s [] [npc.extractLsb' 0 8, npc.extractLsb' 8 8]
    AllImplemented s ws → Does (.call_da target) s ws target) ∧
  ∀ (s : State) (a hi lo : Byte), a.getLsbD 0 = false →
    (∀ b, b = a ∨ b = a + 1#8 → b ≠ spAddr ∧ b ≠ s.sp - 1#8 ∧ b ≠ s.sp - 2#8) →
    s.read 0 a = .ok hi → s.read 1 (a + 1#8) = .ok lo →
    let npc := s.pc + 2#16
    let ws := pushes s [] [npc.extractLsb' 0 8, npc.extractLsb' 8 8]
    AllImplemented s ws → Does (.call_ipair a) s ws (hi ++ lo)

/-- JP cc (43_program_control R143) and JR cc (R145), opcodes ccD and ccB (the byte order of JP's address is
decision D3, log 10, PRESUMED): with a true condition pc takes the target, for JR the
address after it plus the sign-extended byte modulo 2^16 (decision D28, log 9); with a false one pc goes past the
instruction; nothing else changes. -/
def Obligations.ConditionalJumpResult : Prop :=
  (∀ (n : BitVec 4) (a : Addr) (ra : Byte),
    encode (.jp_cc_da (condOfBits n) a) = [n ++ 0xD#4, a.extractLsb' 8 8, a.extractLsb' 0 8] ∧
    encode (.jr_cc_ra (condOfBits n) ra) = [n ++ 0xB#4, ra]) ∧
  (∀ (s : State) (cc : Cond) (a : Addr),
    Does (.jp_cc_da cc a) s [] (if cond cc s.flags then a else s.pc + 3#16)) ∧
  ∀ (s : State) (cc : Cond) (ra : Byte),
    Does (.jr_cc_ra cc ra) s []
      (if cond cc s.flags then s.pc + 2#16 + ra.signExtend 16 else s.pc + 2#16)

/-- JP @ (43_program_control R144), opcode 30, with an even pair: pc takes the pair's 16 bits, high byte at the even
address, and nothing else changes. -/
def Obligations.JumpIndirectResult : Prop :=
  (∀ a : Byte, encode (.jp_ipair a) = [0x30#8, a]) ∧
  ∀ (s : State) (a hi lo : Byte), a.getLsbD 0 = false →
    s.read 0 a = .ok hi → s.read 1 (a + 1#8) = .ok lo → Does (.jp_ipair a) s [] (hi ++ lo)

/-- RET (43_program_control R146): opcode AF; PCH is popped and then PCL, which is read with SP already moved on;
nothing else changes. The stack locations are read as any other (20_memory R44, decision D21, log 27), and SP wraps
modulo 256 (decision D5, log 14). -/
def Obligations.RetResult : Prop :=
  encode .ret = [0xAF#8] ∧
  ∀ (s : State) (hi lo : Byte),
    let sp := s.sp
    s.read 0 sp = .ok hi → (s.setReg spAddr (sp + 1#8)).read 1 (sp + 1#8) = .ok lo →
    Does .ret s [(spAddr, sp + 1#8), (spAddr, sp + 2#8)] (hi ++ lo)

/-- IRET (43_program_control R142), opcode BF: FLAGS, PCH and PCL are popped in that order, each read with the
earlier writes made, all 8 bits of FLAGS are written (decision D7, log 5), SYM.2 is set and SYM's other bits stay
(decision D15, log 31); nothing else changes. The stack locations are read as any other (20_memory R44, decision
D21, log 27), and SP wraps modulo 256 (decision D5, log 14). -/
def Obligations.IretResult : Prop :=
  encode .iret = [0xBF#8] ∧
  ∀ (s : State) (F hi lo : Byte),
    let sp := s.sp
    let s1 := (s.setReg spAddr (sp + 1#8)).setReg flagsAddr F
    let s2 := s1.setReg spAddr (sp + 2#8)
    let ws := [(spAddr, sp + 1#8), (flagsAddr, F), (spAddr, sp + 2#8), (spAddr, sp + 3#8)]
    s.read 0 sp = .ok F → s1.read 1 (sp + 1#8) = .ok hi → s2.read 2 (sp + 2#8) = .ok lo →
    Does .iret s (ws ++ [(s.cfg.symAddr, after s ws s.cfg.symAddr ||| 0x04#8)]) (hi ++ lo)

/-- A procedure that leaves the return address on the stack and SP as it found it returns behind its CALL: RET
undoes what CALL pushed (43_program_control R141, R146, R147). -/
def Obligations.ReturnUndoesCall : Prop :=
  ∀ (s t h : State) (i : Instr) (len : Nat),
    (∃ a, i = .call_da a ∧ len = 3) ∨ (∃ a, i = .call_ipair a ∧ len = 2) →
    PlainStack s 2 → exec i s = .next t →
    h.cfg = t.cfg → h.sp = t.sp →
    (∀ k, 1 ≤ k → k ≤ 2 → h.reg (s.sp - BitVec.ofNat 8 k) = t.reg (s.sp - BitVec.ofNat 8 k)) →
    ∃ u, exec .ret h = .next u ∧ u.pc = s.pc + BitVec.ofNat 16 len ∧ u.sp = s.sp ∧
      ∀ a, a ≠ spAddr → u.reg a = h.reg a

/-! ### CPU control -/

/-- CCF and SCF (46_cpu_control R165, R171): opcodes EF and DF; C is complemented or set, and nothing else
changes. -/
def Obligations.CarryFlagResult : Prop :=
  encode .ccf = [0xEF#8] ∧ encode .scf = [0xDF#8] ∧
  ∀ s : State,
    SetsFlags .ccf s 1 (!s.flags.c) s.flags.z s.flags.s s.flags.v ∧
    SetsFlags .scf s 1 true s.flags.z s.flags.s s.flags.v

/-- RCF clears C and nothing else (46_cpu_control R170), NOP changes nothing but pc (R169); their opcodes CF and FF
are general knowledge (decision D27, log 12). -/
def Obligations.RcfNopResult : Prop :=
  encode .rcf = [0xCF#8] ∧ encode .nop = [0xFF#8] ∧
  ∀ s : State,
    SetsFlags .rcf s 1 false s.flags.z s.flags.s s.flags.v ∧ Does .nop s [] (s.pc + 1#16)

/-- DI and EI (46_cpu_control R166, R167): opcodes 8F and 9F; bit 2 of SYM is cleared or set, and everything else
is unchanged, so requests stay pending. That SYM's other seven bits stay is the spec's decision D15 (log 31, DESIGN
CHOICE). After DI the CPU, running, goes on fetching whatever is pending; after EI a pending request is taken at the
very next boundary, and interrupts at boundaries only are its decision D12 (60_exceptions R186, log 20, DESIGN
CHOICE). What the step does where FetchesNext or TakesInterrupt holds is StepRunsDecoded and InterruptEntry. -/
def Obligations.InterruptEnableResult : Prop :=
  encode .di = [0x8F#8] ∧ encode .ei = [0x9F#8] ∧
  ∀ s : State,
    Does .di s [(s.cfg.symAddr, s.reg s.cfg.symAddr &&& 0xFB#8)] (s.pc + 1#16) ∧
    Does .ei s [(s.cfg.symAddr, s.reg s.cfg.symAddr ||| 0x04#8)] (s.pc + 1#16) ∧
    (∀ t, exec .di s = .next t → t.interruptsEnabled = false ∧
      (s.runState = .running → s.resetAsserted = false → FetchesNext t)) ∧
    ∀ t, exec .ei s = .next t → t.interruptsEnabled = true ∧
      (s.runState = .running → s.resetAsserted = false → s.pending ≠ [] → TakesInterrupt t)

/-- IDLE, opcode 6F, enters Idle mode (46_cpu_control R168). STOP, opcode 7F, enters Stop mode when STOPCON holds
A5H, and otherwise sends pc to the reset address and changes nothing else (R172, 60_exceptions R181; decision D16,
log 22, and STOP's opcode is general knowledge, decision D27, log 12); while STOPCON_ADDR is not configured it stops
(decision D16). -/
def Obligations.IdleStopResult : Prop :=
  encode .idle = [0x6F#8] ∧ encode .stop = [0x7F#8] ∧
  (∀ s : State, ∃ t, exec .idle s = .next t ∧ Halts s t .idle (s.pc + 1#16)) ∧
  (∀ (s : State) (a : Byte), s.cfg.stopconAddr = some a → s.reg a = 0xA5#8 →
    ∃ t, exec .stop s = .next t ∧ Halts s t .stop (s.pc + 1#16)) ∧
  (∀ (s : State) (a : Byte), s.cfg.stopconAddr = some a → s.reg a ≠ 0xA5#8 →
    Does .stop s [] s.cfg.resetAddr) ∧
  ∀ s : State, s.cfg.stopconAddr = none → exec .stop s = .fault .parameterOpen

/-! ### Interrupts, reset, halting -/

/-- Taking an interrupt (60_exceptions R185, R194): PCL, PCH and FLAGS are pushed (its bits 3..0 as a read finds
them, 10_state R21), SYM.2 is cleared, the run state is Running, pc comes from the two-byte vector, high byte
first, and nothing else changes. Entry is the spec's derivation from IRET, and the vector its decision D11 (log
19); entry from Idle or Stop mode in the same step is its decision D17 (R194, log 21), and a push onto a special
location is an ordinary write by its decision D21 (20_memory R44, log 27). -/
def Obligations.InterruptEntry : Prop :=
  ∀ s : State, TakesInterrupt s →
    AllImplemented s (pushes s [] [s.pc.extractLsb' 0 8, s.pc.extractLsb' 8 8, 0#8]) →
    s.cfg.intVector.toNat < s.cfg.pmSize.val → (s.cfg.intVector + 1#16).toNat < s.cfg.pmSize.val →
    ∃ (F : Byte) (u : State),
      F.extractLsb' 4 4 =
        (after s (pushes s [] [s.pc.extractLsb' 0 8, s.pc.extractLsb' 8 8]) flagsAddr).extractLsb' 4 4 ∧
      StepsTo s u ∧
      let ws := pushes s [] [s.pc.extractLsb' 0 8, s.pc.extractLsb' 8 8, F]
      Effect { s with runState := .running } u
        (ws ++ [(s.cfg.symAddr, after s ws s.cfg.symAddr &&& 0xFB#8)])
        (s.pmByte s.cfg.intVector.toNat ++ s.pmByte (s.cfg.intVector + 1#16).toNat)

/-- A service routine that leaves the three saved bytes and SP as it found them resumes the interrupted program
with IRET: pc, the four flags, SP and SYM.2 are those from before the interrupt, and every other register is as
the routine left it (43_program_control R142, 60_exceptions R185, R187; R185 is the spec's derivation). -/
def Obligations.IretUndoesInterrupt : Prop :=
  ∀ s t h : State, TakesInterrupt s → s.cfg.wf = true → PlainStack s 3 →
    (∀ k, 1 ≤ k → k ≤ 3 → s.sp - BitVec.ofNat 8 k ≠ s.cfg.symAddr) → step s = .next t →
    h.cfg = t.cfg → h.sp = t.sp →
    (∀ k, 1 ≤ k → k ≤ 3 → h.reg (s.sp - BitVec.ofNat 8 k) = t.reg (s.sp - BitVec.ofNat 8 k)) →
    ∃ u, exec .iret h = .next u ∧ u.pc = s.pc ∧ u.flags = s.flags ∧ u.sp = s.sp ∧
      u.interruptsEnabled = true ∧
      ∀ a, a ≠ flagsAddr → a ≠ spAddr → a ≠ s.cfg.symAddr → u.reg a = h.reg a

/-- Idle and Stop mode (60_exceptions R194, 10_state R30): without a releasing request a step changes nothing,
so all state survives and no instruction runs; a releasing request while SYM.2 = 0 wakes the CPU or not as
IDLE_WAKE_WHEN_MASKED says, for both its values (decision D17, log 21). -/
def Obligations.HaltedStep : Prop :=
  ∀ s : State, s.runState ≠ .running → s.resetAsserted = false →
    (¬ Released s → StepsTo s s) ∧
    (Released s → s.interruptsEnabled = false →
      StepsTo s (if s.cfg.idleWakeWhenMasked then { s with runState := .running } else s))

/-- Reset (70_reset_and_hazards R210, 60_exceptions R184; decision D14): in every run state it wins over
everything, and leaves the CPU running at RESET_ADDR with SYM.2 = 0, nothing pending and the program-memory image
as it was. Nothing is said of what reset leaves unspecified. -/
def Obligations.ResetStep : Prop :=
  ∀ s : State, s.resetAsserted = true →
    ∃ u, StepsTo s u ∧ u.runState = .running ∧ u.pc = s.cfg.resetAddr ∧ u.interruptsEnabled = false ∧
      u.pending = [] ∧ u.cfg = s.cfg ∧ u.pmWritten = [] ∧ ∀ a, u.pmByte a = s.pmByte a

/-- The state after reset, as far as the spec gives it (10_state R32, decision D14): pc at RESET_ADDR, Running,
SYM.2 = 0, nothing pending. -/
def Obligations.ResetState : Prop :=
  State.reset.pc = State.reset.cfg.resetAddr ∧ State.reset.runState = .running ∧
    State.reset.interruptsEnabled = false ∧ State.reset.pending = []

/-! ### The whole machine -/

/-- Every step keeps the invariant of the memories: canonical form, data memory within DM_SIZE, the addresses
written since reset strictly rising, within PM_SIZE and listed, and none of them where PM_WRITABLE is false
(20_memory R50, R53; the canonical form is the model's). -/
def Obligations.StepKeepsMemoryInv : Prop :=
  ∀ s t : State, s.MemoryInv → step s = .next t → t.MemoryInv

/-- The reset state has the invariant of the memories. -/
def Obligations.ResetMemoryInv : Prop := State.reset.MemoryInv

/-- The program of a masked-ROM device is constant: whatever runs, whatever the environment does and however
often the machine is reset, program memory holds what it held (20_memory R46, R50; 70_reset_and_hazards R210,
R218). -/
def Obligations.MaskedRomIsConstant : Prop :=
  ∀ s t : State, s.cfg.pmWritable = false → Reaches s t →
    t.cfg = s.cfg ∧ ∀ a, t.pmByte a = s.pmByte a

/-- What an instruction can touch at all: none changes the parameters, the pending requests (60_exceptions R182),
the reset line or the model's counters; only the LDC stores write program memory (20_memory R50), only the LDE
stores external data memory (R40), only IDLE and STOP leave the run state (10_state R30); and output events are
only added. -/
def Obligations.InstructionFrame : Prop :=
  ∀ (i : Instr) (s t : State), exec i s = .next t →
    SameControl s t ∧
    (¬ StoresProgram i → ∀ a, t.pmByte a = s.pmByte a) ∧
    (¬ StoresProgram i → t.pmWritten = s.pmWritten) ∧
    (¬ StoresData i → ∀ a, t.dmByte a = s.dmByte a) ∧
    (i ≠ .idle → i ≠ .stop → t.runState = s.runState) ∧
    ∃ l, t.outputs = s.outputs ++ l

/-- Why an instruction can stop (60_exceptions R180, its table; decisions D2, D4, D6, D8, D9, D10, D16, D20, D21,
D29, D30): none is refused, none raises the two faults of the fetch, and each other fault is raised only in the case
that its row of the table names: Unpredictable only in one of the row's cases, an address out of range only where
it is the instruction's own address, by the form's own computation, in the memory it accesses. -/
def Obligations.InstructionFaultCauses : Prop :=
  ∀ (i : Instr) (s : State),
    (∀ r, exec i s ≠ .refused r) ∧ (∀ b, exec i s ≠ .fault (.illegalOpcode b)) ∧
    (∀ a, exec i s ≠ .fault (.fetchOfModifiedCode a)) ∧
    (∀ A, exec i s = .fault (.addressOutOfRange A) → ∃ m : Space, m.size s ≤ A.toNat ∧ Addresses s m A i) ∧
    (∀ a, exec i s = .fault (.oddRegisterPair a) →
      a.getLsbD 0 = true ∧ (i = .jp_ipair a ∨ i = .call_ipair a)) ∧
    (exec i s = .fault .unpredictable → Unpredictable s i) ∧
    (∀ a, exec i s = .fault (.unimplementedRegister a) → s.classOf a = .absent) ∧
    (exec i s = .fault .progMemWriteUnsupported → StoresProgram i ∧ s.cfg.pmWritable = false) ∧
    (exec i s = .fault .parameterOpen → i = .stop ∧ s.cfg.stopconAddr = none)

/-- No instruction sees the environment: what it does depends neither on the pending requests nor on the reset
line, which count only at the instruction boundary (60_exceptions R182, R184, R186, decision D12). -/
def Obligations.InstructionIgnoresRequests : Prop :=
  ∀ (i : Instr) (s : State) (p : List Request) (b : Bool),
    exec i { s with pending := p, resetAsserted := b } =
      match exec i s with
      | .next t => .next { t with pending := p, resetAsserted := b }
      | .fault f => .fault f
      | .refused r => .refused r
end

