-- ==== Sys2Proof/Laws/State.lean ====
section
/-! SUPPORT. The small lemmas of the state: one for each field and each update, so that no proof unfolds a
record update, and the laws of register reads after writes. -/

namespace Sys2Proof.Machine

/-! ### setReg -/

@[simp] theorem setReg_cfg (s : State) (a v : Byte) : (s.setReg a v).cfg = s.cfg := rfl
@[simp] theorem setReg_pc (s : State) (a v : Byte) : (s.setReg a v).pc = s.pc := rfl
@[simp] theorem setReg_pm (s : State) (a v : Byte) : (s.setReg a v).pm = s.pm := rfl
@[simp] theorem setReg_pmWritten (s : State) (a v : Byte) : (s.setReg a v).pmWritten = s.pmWritten := rfl
@[simp] theorem setReg_dm (s : State) (a v : Byte) : (s.setReg a v).dm = s.dm := rfl
@[simp] theorem setReg_runState (s : State) (a v : Byte) : (s.setReg a v).runState = s.runState := rfl
@[simp] theorem setReg_pending (s : State) (a v : Byte) : (s.setReg a v).pending = s.pending := rfl
@[simp] theorem setReg_resetAsserted (s : State) (a v : Byte) :
    (s.setReg a v).resetAsserted = s.resetAsserted := rfl
@[simp] theorem setReg_outputs (s : State) (a v : Byte) : (s.setReg a v).outputs = s.outputs := rfl
@[simp] theorem setReg_tick (s : State) (a v : Byte) : (s.setReg a v).tick = s.tick := rfl
@[simp] theorem setReg_epoch (s : State) (a v : Byte) : (s.setReg a v).epoch = s.epoch := rfl

@[simp] theorem reg_setReg_self (s : State) (a v : Byte) : (s.setReg a v).reg a = v := by
  simp [State.reg, State.setReg]

theorem reg_setReg (s : State) (a v b : Byte) :
    (s.setReg a v).reg b = if b = a then v else s.reg b := by
  by_cases h : b = a
  · subst h; simp
  · have hn : a.toNat ≠ b.toNat := fun e => h (BitVec.eq_of_toNat_eq e).symm
    simp [State.reg, State.setReg, Vector.getElem_set_ne _ _ hn, h]

@[simp] theorem reg_setReg_ne (s : State) {a b : Byte} (v : Byte) (h : b ≠ a) :
    (s.setReg a v).reg b = s.reg b := by
  rw [reg_setReg, if_neg h]

/-! ### Record updates that leave the register file alone -/

@[simp] theorem reg_with_pc (s : State) (p : Addr) (a : Byte) : ({ s with pc := p } : State).reg a = s.reg a := rfl
@[simp] theorem reg_with_runState (s : State) (r : RunState) (a : Byte) :
    ({ s with runState := r } : State).reg a = s.reg a := rfl
@[simp] theorem reg_with_outputs (s : State) (o : List OutputEvent) (a : Byte) :
    ({ s with outputs := o } : State).reg a = s.reg a := rfl
@[simp] theorem reg_with_pending (s : State) (p : List Request) (a : Byte) :
    ({ s with pending := p } : State).reg a = s.reg a := rfl
@[simp] theorem reg_with_dm (s : State) (m : Memory) (a : Byte) :
    ({ s with dm := m } : State).reg a = s.reg a := rfl
@[simp] theorem reg_with_tick (s : State) (n : Nat) (a : Byte) :
    ({ s with tick := n } : State).reg a = s.reg a := rfl
@[simp] theorem reg_with_pm (s : State) (m : Memory) (l : List Nat) (a : Byte) :
    ({ s with pm := m, pmWritten := l } : State).reg a = s.reg a := rfl

/-! ### advance -/

@[simp] theorem advance_cfg (s : State) (n : Nat) : (s.advance n).cfg = s.cfg := rfl
@[simp] theorem advance_regs (s : State) (n : Nat) : (s.advance n).regs = s.regs := rfl
@[simp] theorem advance_reg (s : State) (n : Nat) (a : Byte) : (s.advance n).reg a = s.reg a := rfl
@[simp] theorem advance_pc (s : State) (n : Nat) : (s.advance n).pc = s.pc + BitVec.ofNat 16 n := rfl
@[simp] theorem advance_pm (s : State) (n : Nat) : (s.advance n).pm = s.pm := rfl
@[simp] theorem advance_pmWritten (s : State) (n : Nat) : (s.advance n).pmWritten = s.pmWritten := rfl
@[simp] theorem advance_dm (s : State) (n : Nat) : (s.advance n).dm = s.dm := rfl
@[simp] theorem advance_runState (s : State) (n : Nat) : (s.advance n).runState = s.runState := rfl
@[simp] theorem advance_pending (s : State) (n : Nat) : (s.advance n).pending = s.pending := rfl
@[simp] theorem advance_resetAsserted (s : State) (n : Nat) :
    (s.advance n).resetAsserted = s.resetAsserted := rfl
@[simp] theorem advance_outputs (s : State) (n : Nat) : (s.advance n).outputs = s.outputs := rfl
@[simp] theorem advance_tick (s : State) (n : Nat) : (s.advance n).tick = s.tick := rfl
@[simp] theorem advance_epoch (s : State) (n : Nat) : (s.advance n).epoch = s.epoch := rfl
@[simp] theorem advance_flags (s : State) (n : Nat) : (s.advance n).flags = s.flags := rfl

/-! ### The class of a location depends on the parameters alone -/

theorem classOf_congr {s t : State} (h : t.cfg = s.cfg) (a : Byte) : t.classOf a = s.classOf a := by
  simp only [State.classOf, h]

theorem wr_congr {s t : State} (h : t.cfg = s.cfg) (n : WReg) : t.wr n = s.wr n := by
  simp only [State.wr, h]

theorem pairAddr_congr {s t : State} (h : t.cfg = s.cfg) (p : Pair) : t.pairAddr p = s.pairAddr p := by
  simp only [State.pairAddr, wr_congr h]

@[simp] theorem classOf_setReg (s : State) (a v b : Byte) : (s.setReg a v).classOf b = s.classOf b := rfl
@[simp] theorem wr_setReg (s : State) (a v : Byte) (n : WReg) : (s.setReg a v).wr n = s.wr n := rfl
@[simp] theorem sp_setReg_sp (s : State) (v : Byte) : (s.setReg spAddr v).sp = v := by simp [State.sp]
@[simp] theorem sp_setReg_flags (s : State) (v : Byte) : (s.setReg flagsAddr v).sp = s.sp :=
  reg_setReg_ne s v (by decide)

/-! ### Nibbles, bytes and flags -/

@[simp] theorem hiNib_joinNib : ∀ h l : BitVec 4, hiNib (joinNib h l) = h := by decide
@[simp] theorem loNib_joinNib : ∀ h l : BitVec 4, loNib (joinNib h l) = l := by decide
theorem joinNib_hiNib_loNib : ∀ b : Byte, joinNib (hiNib b) (loNib b) = b := by decide
@[simp] theorem pairOf_pairNib : ∀ (p : Pair) (x : BitVec 1), pairOf (pairNib p x) = p := by decide
@[simp] theorem spaceOf_pairNib_zero : ∀ p : Pair, spaceOf (pairNib p 0#1) = false := by decide
@[simp] theorem spaceOf_pairNib_one : ∀ p : Pair, spaceOf (pairNib p 1#1) = true := by decide

@[simp] theorem hiByte_word16 (h l : Byte) : hiByte (word16 h l) = h := by
  apply BitVec.eq_of_getLsbD_eq
  intro i hi
  simp only [hiByte, word16, BitVec.getLsbD_extractLsb', BitVec.getLsbD_append, hi]
  have h8 : ¬ 8 + i < 8 := by omega
  simp [h8]
@[simp] theorem loByte_word16 (h l : Byte) : loByte (word16 h l) = l := by
  apply BitVec.eq_of_getLsbD_eq
  intro i hi
  simp only [loByte, word16, BitVec.getLsbD_extractLsb', BitVec.getLsbD_append, hi]
  simp [hi]
@[simp] theorem word16_hiByte_loByte (a : Addr) : word16 (hiByte a) (loByte a) = a := by
  apply BitVec.eq_of_getLsbD_eq
  intro i hi
  simp only [hiByte, word16, loByte, BitVec.getLsbD_extractLsb', BitVec.getLsbD_append]
  by_cases h : i < 8
  · simp [h]
  · have e : 8 + (i - 8) = i := by omega
    have l : i - 8 < 8 := by omega
    simp [h, e, l]

@[simp] theorem condOfBits_condBits : ∀ k : Cond, condOfBits (condBits k) = k := by
  intro k; cases k <;> rfl
theorem condBits_condOfBits : ∀ n : BitVec 4, condBits (condOfBits n) = n := by decide

@[simp] theorem flags_setFlags (s : State) (f : Flags) : (s.setFlags f).flags = f := by
  obtain ⟨c, z, n, v⟩ := f
  simp only [State.flags, State.setFlags, reg_setReg_self, packFlags]
  generalize loNib (s.reg flagsAddr) = l
  revert l
  cases c <;> cases z <;> cases n <;> cases v <;> decide

@[simp] theorem loNib_setFlags (s : State) (f : Flags) :
    loNib ((s.setFlags f).reg flagsAddr) = loNib (s.reg flagsAddr) := by
  simp [State.setFlags, packFlags]

@[simp] theorem reg_setFlags_ne (s : State) (f : Flags) {a : Byte} (h : a ≠ flagsAddr) :
    (s.setFlags f).reg a = s.reg a := by
  simp [State.setFlags, h]

@[simp] theorem setFlags_cfg (s : State) (f : Flags) : (s.setFlags f).cfg = s.cfg := rfl
@[simp] theorem setFlags_pc (s : State) (f : Flags) : (s.setFlags f).pc = s.pc := rfl
@[simp] theorem setFlags_pm (s : State) (f : Flags) : (s.setFlags f).pm = s.pm := rfl
@[simp] theorem setFlags_pmWritten (s : State) (f : Flags) : (s.setFlags f).pmWritten = s.pmWritten := rfl
@[simp] theorem setFlags_dm (s : State) (f : Flags) : (s.setFlags f).dm = s.dm := rfl
@[simp] theorem setFlags_runState (s : State) (f : Flags) : (s.setFlags f).runState = s.runState := rfl
@[simp] theorem setFlags_pending (s : State) (f : Flags) : (s.setFlags f).pending = s.pending := rfl
@[simp] theorem setFlags_resetAsserted (s : State) (f : Flags) :
    (s.setFlags f).resetAsserted = s.resetAsserted := rfl
@[simp] theorem setFlags_outputs (s : State) (f : Flags) : (s.setFlags f).outputs = s.outputs := rfl
@[simp] theorem setFlags_tick (s : State) (f : Flags) : (s.setFlags f).tick = s.tick := rfl
@[simp] theorem setFlags_epoch (s : State) (f : Flags) : (s.setFlags f).epoch = s.epoch := rfl

end Sys2Proof.Machine
end

