-- ==== Sys2Proof/Laws/Decode.lean ====
section
/-! SUPPORT. What the decoder can do, said once: it answers an instruction exactly where the first byte gives a
length, the bytes are long enough, and the opcode map has a row; and the length of every encoding is the one its
first byte gives. -/

namespace Sys2Proof

open Sys2Proof.Machine

/-- Decoding from its three conditions. -/
theorem decode_of {b : Byte} {bs : List Byte} {n : Nat} {i : Instr} (hn : opLength b = some n)
    (hl : n ≤ bs.length + 1) (hi : decodeOp b (bs.getD 0 0#8) (bs.getD 1 0#8) (bs.getD 2 0#8) = some i) :
    decode (b :: bs) = .instr i (bs.drop (n - 1)) := by
  simp only [decode, hn, hi]
  rw [if_neg (by omega)]

/-- Everything a successful decoding says. -/
theorem decode_inv {bs rest : List Byte} {i : Instr} (h : decode bs = .instr i rest) :
    ∃ b bs' n, bs = b :: bs' ∧ opLength b = some n ∧ n ≤ bs'.length + 1 ∧
      decodeOp b (bs'.getD 0 0#8) (bs'.getD 1 0#8) (bs'.getD 2 0#8) = some i ∧ rest = bs'.drop (n - 1) := by
  cases bs with
  | nil => cases h
  | cons b bs' =>
    cases hn : opLength b with
    | none => simp only [decode, hn] at h; cases h
    | some n =>
      simp only [decode, hn] at h
      split at h
      · cases h
      · rename_i hl
        cases hd : decodeOp b (bs'.getD 0 0#8) (bs'.getD 1 0#8) (bs'.getD 2 0#8) with
        | none => rw [hd] at h; cases h
        | some j =>
          rw [hd] at h
          cases h
          exact ⟨b, bs', n, rfl, hn, by omega, hd, rfl⟩

/-- A first byte without a length is refused, whatever follows. -/
theorem decode_none {b : Byte} (h : opLength b = none) (bs : List Byte) :
    decode (b :: bs) = .illegalOpcode b := by
  simp only [decode, h]

/-- A length is 1 to 4 bytes. -/
theorem opLength_range : ∀ (b : Byte) (n : Nat), opLength b = some n → 1 ≤ n ∧ n ≤ 4 := by
  have h : ∀ b : Byte, (match opLength b with | none => true | some n => decide (1 ≤ n ∧ n ≤ 4)) = true := by
    decide
  intro b n hn
  have hb := h b
  rw [hn] at hb
  simpa using hb

/-- The length that a first byte of a column 8, 9, B, C, D or E gives does not depend on its high nibble. -/
theorem opLength_operand_columns :
    ∀ h : BitVec 4, opLength (joinNib h 0x8#4) = some 2 ∧ opLength (joinNib h 0x9#4) = some 2 ∧
      opLength (joinNib h 0xB#4) = some 2 ∧ opLength (joinNib h 0xC#4) = some 2 ∧
      opLength (joinNib h 0xD#4) = some 3 ∧ opLength (joinNib h 0xE#4) = some 1 := by decide

end Sys2Proof
end

