-- ==== Sys2Proof/Laws/Memory.lean ====
section
/-! SUPPORT. The laws of memory: a read after a write, and that every memory operation keeps the canonical
form (addresses strictly rising). -/

namespace Sys2Proof.Machine

theorem find?_write (m : Memory) (a : Nat) (v : Byte) (b : Nat) :
    Memory.find? (Memory.write m a v) b = if b = a then some v else Memory.find? m b := by
  induction m with
  | nil => simp [Memory.write, Memory.find?, eq_comm]
  | cons c rest ih =>
    obtain ⟨k, w⟩ := c
    simp only [Memory.write]
    split
    · simp [Memory.find?, eq_comm]
    · split
      · subst_vars
        by_cases hb : b = k <;> simp [Memory.find?, hb, eq_comm]
      · simp only [Memory.find?, ih]
        by_cases hb : k = b
        · subst hb; simp; omega
        · simp [hb]

theorem mem_write {m : Memory} {a : Nat} {v : Byte} {c : Host.Cell} (h : c ∈ Memory.write m a v) :
    c = (a, v) ∨ c ∈ m := by
  induction m with
  | nil => simpa [Memory.write] using h
  | cons d rest ih =>
    obtain ⟨k, w⟩ := d
    simp only [Memory.write] at h
    split at h
    · simpa using h
    · split at h
      · simp only [List.mem_cons] at h ⊢; tauto
      · simp only [List.mem_cons] at h ⊢
        rcases h with h | h
        · exact .inr (.inl h)
        · rcases ih h with h | h
          · exact .inl h
          · exact .inr (.inr h)

/-- A write keeps the canonical form. -/
theorem write_wf {m : Memory} (h : m.wf) (a : Nat) (v : Byte) : Memory.wf (Memory.write m a v) := by
  induction m with
  | nil => simp [Memory.write, Memory.wf]
  | cons c rest ih =>
    obtain ⟨k, w⟩ := c
    simp only [Memory.wf, List.pairwise_cons] at h
    simp only [Memory.write]
    split
    · rename_i hlt
      simp only [Memory.wf, List.pairwise_cons, List.mem_cons]
      refine ⟨?_, h.1, h.2⟩
      rintro d (rfl | hd)
      · exact hlt
      · exact Nat.lt_trans hlt (h.1 d hd)
    · split
      · subst_vars
        simpa only [Memory.wf, List.pairwise_cons] using h
      · simp only [Memory.wf, List.pairwise_cons]
        refine ⟨fun d hd => ?_, ih h.2⟩
        rcases mem_write hd with rfl | hd
        · simp only; omega
        · exact h.1 d hd

theorem mem_insertAddr {l : List Nat} {a b : Nat} : b ∈ insertAddr l a ↔ b = a ∨ b ∈ l := by
  induction l with
  | nil => simp [insertAddr]
  | cons k rest ih =>
    simp only [insertAddr]
    split
    · simp
    · split
      · subst_vars; simp
      · simp only [List.mem_cons, ih]; tauto

/-- Adding an address keeps the list strictly rising. -/
theorem insertAddr_rising {l : List Nat} (h : l.Pairwise (· < ·)) (a : Nat) :
    (insertAddr l a).Pairwise (· < ·) := by
  induction l with
  | nil => simp [insertAddr]
  | cons k rest ih =>
    rw [List.pairwise_cons] at h
    simp only [insertAddr]
    split
    · rename_i hlt
      simp only [List.pairwise_cons, List.mem_cons]
      refine ⟨?_, h.1, h.2⟩
      rintro d (rfl | hd)
      · exact hlt
      · exact Nat.lt_trans hlt (h.1 d hd)
    · split
      · exact List.pairwise_cons.2 h
      · refine List.pairwise_cons.2 ⟨fun d hd => ?_, ih h.2⟩
        rcases mem_insertAddr.1 hd with rfl | hd
        · omega
        · exact h.1 d hd

end Sys2Proof.Machine
end

