-- ==== Sys2Proof/Laws/Ops.lean ====
section
/-! SUPPORT. What each shared operation over registers and memory can do, said once: its success as a
sequence of register writes (`Effect`), and its inversion. -/

namespace Sys2Proof.Machine

open Sys2Proof.Claims

/-! ### Sequencing -/

theorem ok_bind {α β : Type} (a : α) (f : α → Except Fault β) : (Except.ok a >>= f) = f a := rfl

theorem error_bind {α β : Type} (e : Fault) (f : α → Except Fault β) :
    ((Except.error e : Except Fault α) >>= f) = .error e := rfl

/-- A sequence that succeeds: its first part did, and so did the rest from its result. -/
theorem bind_ok_inv {α β : Type} {r : Except Fault α} {f : α → Except Fault β} {b : β}
    (h : (r >>= f) = .ok b) : ∃ a, r = .ok a ∧ f a = .ok b := by
  cases r with
  | error e => cases h
  | ok a => exact ⟨a, rfl, h⟩

/-- A sequence that stops: its first part did, or it succeeded and the rest stopped. -/
theorem bind_error_inv {α β : Type} {r : Except Fault α} {f : α → Except Fault β} {e : Fault}
    (h : (r >>= f) = .error e) : r = .error e ∨ ∃ a, r = .ok a ∧ f a = .error e := by
  cases r with
  | error e' => cases h; exact .inl rfl
  | ok a => exact .inr ⟨a, rfl, h⟩

/-! ### Classes -/

@[simp] theorem classOf_flags (s : State) : s.classOf flagsAddr = .control := by simp [State.classOf]
@[simp] theorem classOf_sp (s : State) : s.classOf spAddr = .control := by simp [State.classOf]
@[simp] theorem classOf_sym (s : State) : s.classOf s.cfg.symAddr = .control := by simp [State.classOf]

theorem classOf_stopcon {s : State} {a : Byte} (h : s.cfg.stopconAddr = some a) :
    s.classOf a = .control := by simp [State.classOf, h]

theorem zeroExtend_nibble_lt : ∀ n : WReg, (n.zeroExtend 8).toNat < 16 := by decide

/-- A working register is storage, whatever RF_MAP says. -/
theorem classOf_wr (s : State) (n : WReg) : s.classOf (s.wr n) = .control ∨ s.classOf (s.wr n) = .plain := by
  unfold State.classOf
  split
  · exact .inl rfl
  · have h : (s.wr n - s.cfg.wrBase).toNat < 16 := by
      have e : s.wr n - s.cfg.wrBase = n.zeroExtend 8 := by simp only [State.wr]; bv_omega
      rw [e]; exact zeroExtend_nibble_lt n
    rw [if_pos h]; exact .inr rfl

theorem implemented_wr (s : State) (n : WReg) : Implemented s (s.wr n) := by
  rcases classOf_wr s n with h | h <;> simp [Implemented, h]

theorem classOf_wr_ne_platform (s : State) (n : WReg) : s.classOf (s.wr n) ≠ .platform := by
  rcases classOf_wr s n with h | h <;> simp [h]

theorem pairAddr_succ : ∀ (b : Byte) (p : Pair),
    b + (pairNib p 0#1).zeroExtend 8 + 1#8 = b + (pairNib p 1#1).zeroExtend 8 := by
  have h : ∀ p : Pair, (pairNib p 0#1).zeroExtend 8 + 1#8 = (pairNib p 1#1).zeroExtend 8 := by decide
  intro b p
  rw [BitVec.add_assoc, h]

/-- The odd register of a working pair is a working register. -/
theorem pairAddr_add_one (s : State) (p : Pair) : s.pairAddr p + 1#8 = s.wr (pairNib p 1#1) :=
  pairAddr_succ s.cfg.wrBase p

theorem implemented_pair (s : State) (p : Pair) :
    Implemented s (s.pairAddr p) ∧ Implemented s (s.pairAddr p + 1#8) := by
  refine ⟨implemented_wr s _, ?_⟩
  rw [pairAddr_add_one]
  exact implemented_wr s _

/-! ### Reads -/

theorem implemented_of_read {s : State} {k : Nat} {a v : Byte} (h : s.read k a = .ok v) :
    Implemented s a := by
  intro ha
  simp [State.read, ha] at h

/-- A location that is there can be read. -/
theorem read_ok_of_implemented {s : State} (k : Nat) {a : Byte} (h : Implemented s a) :
    ∃ v, s.read k a = .ok v := by
  unfold State.read
  cases hc : s.classOf a with
  | absent => exact absurd hc h
  | plain => exact ⟨_, rfl⟩
  | control => exact ⟨_, rfl⟩
  | platform => exact ⟨_, rfl⟩

/-- Storage other than FLAGS reads as it was written. -/
theorem read_storage {s : State} (k : Nat) {a : Byte} (hf : a ≠ flagsAddr)
    (h : s.classOf a = .plain ∨ s.classOf a = .control) : s.read k a = .ok (s.reg a) := by
  rcases h with h | h <;> simp [State.read, h, hf]

theorem read_flags (s : State) (k : Nat) : s.read k flagsAddr = .ok (s.flagsRead k) := by
  simp [State.read]

/-- A read stops in one way only. -/
theorem read_error {s : State} {k : Nat} {a : Byte} {f : Fault} (h : s.read k a = .error f) :
    s.classOf a = .absent ∧ f = .unimplementedRegister a := by
  unfold State.read at h
  split at h <;> simp_all

end Sys2Proof.Machine

namespace Sys2Proof.Claims

open Sys2Proof.Machine

/-! ### Effects -/

theorem after_nil (s : State) (a : Byte) : after s [] a = s.reg a := by simp [after, lastWritten]

theorem lastWritten_append (ws ws' : List (Byte × Byte)) (a old : Byte) :
    lastWritten (ws ++ ws') a old = lastWritten ws' a (lastWritten ws a old) := by
  simp [lastWritten, List.foldl_append]

theorem SameMemory.refl (s : State) : SameMemory s s := ⟨fun _ => rfl, rfl, fun _ => rfl⟩

theorem SameControl.refl (s : State) : SameControl s s := ⟨rfl, rfl, rfl, rfl, rfl⟩

theorem Effect.refl (s : State) : Effect s s [] s.pc :=
  ⟨⟨fun a => (after_nil s a).symm, by simp [events]⟩, .refl s, .refl s, rfl, rfl⟩

theorem Writes.trans {s t u : State} {ws ws' : List (Byte × Byte)} (hc : t.cfg = s.cfg)
    (h : Writes s t ws) (h' : Writes t u ws') : Writes s u (ws ++ ws') := by
  constructor
  · intro a
    have e := h.regs a
    rw [h'.regs a]
    simp only [after, classOf_congr hc] at e ⊢
    by_cases hp : s.classOf a = .platform
    · simpa [hp] using e
    · simp only [hp, if_false] at e ⊢
      rw [lastWritten_append, e]
  · rw [h'.outputs, h.outputs]
    simp [events, classOf_congr hc]

theorem SameMemory.trans {s t u : State} (h : SameMemory s t) (h' : SameMemory t u) : SameMemory s u :=
  ⟨fun a => (h'.program a).trans (h.program a), h'.written.trans h.written,
    fun a => (h'.data a).trans (h.data a)⟩

theorem SameControl.trans {s t u : State} (h : SameControl s t) (h' : SameControl t u) : SameControl s u :=
  ⟨h'.cfg.trans h.cfg, h'.pending.trans h.pending, h'.resetAsserted.trans h.resetAsserted,
    h'.tick.trans h.tick, h'.epoch.trans h.epoch⟩

/-- Effects compose: the writes of the second come after those of the first. -/
theorem Effect.trans {s t u : State} {ws ws' : List (Byte × Byte)} {p q : Addr}
    (h : Effect s t ws p) (h' : Effect t u ws' q) : Effect s u (ws ++ ws') q :=
  ⟨h.writes.trans h.control.cfg h'.writes, h.memory.trans h'.memory, h.control.trans h'.control,
    h'.runState.trans h.runState, h'.pc⟩

/-- Setting pc is an effect on pc alone. -/
theorem Effect.setPc {s t : State} {ws : List (Byte × Byte)} {p : Addr} (h : Effect s t ws p) (q : Addr) :
    Effect s { t with pc := q } ws q :=
  ⟨⟨h.writes.regs, h.writes.outputs⟩, ⟨h.memory.program, h.memory.written, h.memory.data⟩,
    ⟨h.control.cfg, h.control.pending, h.control.resetAsserted, h.control.tick, h.control.epoch⟩,
    h.runState, rfl⟩

theorem Effect.advance {s t : State} {ws : List (Byte × Byte)} (h : Effect s t ws s.pc) (n : Nat) :
    Effect s (t.advance n) ws (s.pc + BitVec.ofNat 16 n) := by
  have e := h.setPc (t.pc + BitVec.ofNat 16 n)
  rw [h.pc] at e
  have : t.advance n = { t with pc := s.pc + BitVec.ofNat 16 n } := by
    rw [← h.pc]; rfl
  rw [this]; exact e

theorem Implemented.congr {s t : State} (hc : t.cfg = s.cfg) {a : Byte} :
    Implemented t a ↔ Implemented s a := by
  simp [Implemented, classOf_congr hc]

end Sys2Proof.Claims

namespace Sys2Proof.Machine

open Sys2Proof.Claims

/-! ### Register writes -/

/-- Storing at a location that is no platform register is one register write. -/
theorem effect_setReg {s : State} {a : Byte} (v : Byte) (h : s.classOf a ≠ .platform) :
    Effect s (s.setReg a v) [(a, v)] s.pc := by
  refine ⟨⟨fun b => ?_, ?_⟩, ⟨fun _ => rfl, rfl, fun _ => rfl⟩, ⟨rfl, rfl, rfl, rfl, rfl⟩, rfl, rfl⟩
  · rw [reg_setReg]
    simp only [after, lastWritten, List.foldl_cons, List.foldl_nil]
    by_cases hb : b = a
    · subst hb; simp [h]
    · simp [hb, Ne.symm hb]
  · simp [events, h]

/-- Flag writers write one byte at FLAGS. -/
theorem effect_setFlags (s : State) (f : Flags) :
    Effect s (s.setFlags f) [(flagsAddr, packFlags f (s.reg flagsAddr))] s.pc :=
  effect_setReg _ (by simp)

theorem packFlags_flagsByte (s : State) (f : Flags) :
    FlagsByte s (packFlags f (s.reg flagsAddr)) f.c f.z f.s f.v := by
  have h := flags_setFlags s f
  simp only [State.flags, State.setFlags, reg_setReg_self] at h
  have l := loNib_setFlags s f
  simp only [State.setFlags, reg_setReg_self] at l
  refine ⟨congrArg Flags.c h, congrArg Flags.z h, congrArg Flags.s h, congrArg Flags.v h, l⟩

/-- A write to a location that is there succeeds, and is one register write. -/
theorem write_ok {s : State} {a : Byte} (v : Byte) (h : Implemented s a) :
    ∃ t, s.write a v = .ok t ∧ Effect s t [(a, v)] s.pc := by
  unfold State.write
  cases hc : s.classOf a with
  | absent => exact absurd hc h
  | plain => exact ⟨_, rfl, effect_setReg v (by simp [hc])⟩
  | control => exact ⟨_, rfl, effect_setReg v (by simp [hc])⟩
  | platform =>
    refine ⟨_, rfl, ⟨fun b => ?_, ?_⟩, ⟨fun _ => rfl, rfl, fun _ => rfl⟩, ⟨rfl, rfl, rfl, rfl, rfl⟩, rfl,
      rfl⟩
    · simp only [after, lastWritten, List.foldl_cons, List.foldl_nil]
      by_cases hb : a = b
      · subst hb; simp [hc]
      · simp [hb]
    · simp [events, hc]

/-- Everything a write can do. -/
theorem write_inv {s t : State} {a v : Byte} (h : s.write a v = .ok t) :
    Implemented s a ∧ Effect s t [(a, v)] s.pc := by
  have hi : Implemented s a := by
    intro ha
    simp [State.write, ha] at h
  obtain ⟨t', h', he⟩ := write_ok v hi
  rw [h] at h'
  cases h'
  exact ⟨hi, he⟩

theorem write_error {s : State} {a v : Byte} {f : Fault} (h : s.write a v = .error f) :
    s.classOf a = .absent ∧ f = .unimplementedRegister a := by
  unfold State.write at h
  split at h <;> simp_all

/-- The parts of the state that a write leaves as they were. -/
theorem write_frame {s t : State} {a v : Byte} (h : s.write a v = .ok t) :
    t.cfg = s.cfg ∧ t.pc = s.pc ∧ t.pm = s.pm ∧ t.pmWritten = s.pmWritten ∧ t.dm = s.dm ∧
      t.runState = s.runState ∧ t.pending = s.pending ∧ t.resetAsserted = s.resetAsserted ∧
      t.tick = s.tick ∧ t.epoch = s.epoch := by
  unfold State.write at h
  split at h <;> cases h <;> exact ⟨rfl, rfl, rfl, rfl, rfl, rfl, rfl, rfl, rfl, rfl⟩

/-! ### Pairs and the stack -/

theorem readPair_ok {s : State} {k : Nat} {a h l : Byte} (hh : s.read k a = .ok h)
    (hl : s.read (k + 1) (a + 1#8) = .ok l) : s.readPair k a = .ok (word16 h l) := by
  unfold State.readPair
  rw [hh, ok_bind, hl, ok_bind]

/-- Everything a pair read can do. -/
theorem readPair_inv {s : State} {k : Nat} {a : Byte} {v : Addr} (h : s.readPair k a = .ok v) :
    ∃ x y, s.read k a = .ok x ∧ s.read (k + 1) (a + 1#8) = .ok y ∧ v = word16 x y := by
  obtain ⟨x, hx, h⟩ := bind_ok_inv h
  obtain ⟨y, hy, h⟩ := bind_ok_inv h
  cases h
  exact ⟨x, y, hx, hy, rfl⟩

/-- The pair of an Irr operand can always be read. -/
theorem addrIrr_ok (s : State) (p : Pair) : ∃ v, s.addrIrr p = .ok v := by
  obtain ⟨x, hx⟩ := read_ok_of_implemented 0 (implemented_pair s p).1
  obtain ⟨y, hy⟩ := read_ok_of_implemented 1 (implemented_pair s p).2
  exact ⟨_, readPair_ok hx hy⟩

theorem writePair_ok {s : State} {a : Byte} (v : Addr) (h : Implemented s a)
    (h' : Implemented s (a + 1#8)) :
    ∃ t, s.writePair a v = .ok t ∧ Effect s t [(a, hiByte v), (a + 1#8, loByte v)] s.pc := by
  obtain ⟨t, ht, e⟩ := write_ok (hiByte v) h
  obtain ⟨u, hu, e'⟩ := write_ok (loByte v) ((Implemented.congr e.control.cfg).2 h')
  refine ⟨u, ?_, ?_⟩
  · unfold State.writePair
    rw [ht, ok_bind, hu]
  · rw [e.pc] at e'
    exact e.trans e'

/-- A push succeeds where the stack location is there, and is two register writes. -/
theorem push_ok {s : State} (v : Byte) (h : Implemented s (s.sp - 1#8)) :
    ∃ t, s.push v = .ok t ∧ Effect s t [(spAddr, s.sp - 1#8), (s.sp - 1#8, v)] s.pc := by
  have e := effect_setReg (s := s) (a := spAddr) (s.sp - 1#8) (by simp)
  obtain ⟨t, ht, e'⟩ := write_ok (s := s.setReg spAddr (s.sp - 1#8)) v
    ((Implemented.congr rfl).2 h)
  refine ⟨t, ?_, e.trans e'⟩
  unfold State.push
  simpa using ht

theorem push_inv {s t : State} {v : Byte} (h : s.push v = .ok t) :
    Implemented s (s.sp - 1#8) ∧ Effect s t [(spAddr, s.sp - 1#8), (s.sp - 1#8, v)] s.pc := by
  have hi : Implemented s (s.sp - 1#8) := by
    unfold State.push at h
    simp only [sp_setReg_sp] at h
    exact (Implemented.congr (s := s) rfl).1 (write_inv h).1
  obtain ⟨t', h', he⟩ := push_ok v hi
  rw [h] at h'
  cases h'
  exact ⟨hi, he⟩

theorem push_error {s : State} {v : Byte} {f : Fault} (h : s.push v = .error f) :
    s.classOf (s.sp - 1#8) = .absent ∧ f = .unimplementedRegister (s.sp - 1#8) := by
  unfold State.push at h
  simp only [sp_setReg_sp] at h
  exact write_error (s := s.setReg spAddr (s.sp - 1#8)) h

/-- Everything a pop can do. -/
theorem pop_inv {s : State} {k : Nat} {r : Byte × State} (h : s.pop k = .ok r) :
    s.read k s.sp = .ok r.1 ∧ r.2 = s.setReg spAddr (s.sp + 1#8) := by
  obtain ⟨v, hv, h⟩ := bind_ok_inv h
  cases h
  exact ⟨hv, rfl⟩

theorem pop_ok {s : State} {k : Nat} {v : Byte} (h : s.read k s.sp = .ok v) :
    s.pop k = .ok (v, s.setReg spAddr (s.sp + 1#8)) := by
  unfold State.pop
  rw [h, ok_bind]

/-! ### The memories -/

theorem pmLoad_ok {s : State} {a : Addr} (h : a.toNat < s.cfg.pmSize.val) :
    s.pmLoad a = .ok (s.pmByte a.toNat) := if_pos h

theorem dmLoad_ok {s : State} {a : Addr} (h : a.toNat < s.cfg.dmSize.val) :
    s.dmLoad a = .ok (s.dmByte a.toNat) := if_pos h

theorem pmLoad_inv {s : State} {a : Addr} {v : Byte} (h : s.pmLoad a = .ok v) :
    a.toNat < s.cfg.pmSize.val ∧ v = s.pmByte a.toNat := by
  unfold State.pmLoad at h
  split at h
  · rename_i ha; cases h; exact ⟨ha, rfl⟩
  · cases h

theorem dmLoad_inv {s : State} {a : Addr} {v : Byte} (h : s.dmLoad a = .ok v) :
    a.toNat < s.cfg.dmSize.val ∧ v = s.dmByte a.toNat := by
  unfold State.dmLoad at h
  split at h
  · rename_i ha; cases h; exact ⟨ha, rfl⟩
  · cases h

/-- Everything a store to program memory can do. -/
theorem pmStore_inv {s t : State} {a : Addr} {v : Byte} (h : s.pmStore a v = .ok t) :
    s.cfg.pmWritable = true ∧ a.toNat < s.cfg.pmSize.val ∧
      t = { s with pm := Memory.write s.pm a.toNat v, pmWritten := insertAddr s.pmWritten a.toNat } := by
  unfold State.pmStore at h
  split at h
  · cases h
  · split at h
    · rename_i hw ha; cases h; exact ⟨by simpa using hw, ha, rfl⟩
    · cases h

/-- Everything a store to data memory can do. -/
theorem dmStore_inv {s t : State} {a : Addr} {v : Byte} (h : s.dmStore a v = .ok t) :
    a.toNat < s.cfg.dmSize.val ∧ t = { s with dm := Memory.write s.dm a.toNat v } := by
  unfold State.dmStore at h
  split at h
  · rename_i ha; cases h; exact ⟨ha, rfl⟩
  · cases h

/-- A byte of program memory after a write to it. -/
theorem pmByte_write (s : State) (a b : Nat) (v : Byte) (l : List Nat) :
    ({ s with pm := Memory.write s.pm a v, pmWritten := l } : State).pmByte b =
      if b = a then v else s.pmByte b := by
  simp only [State.pmByte, find?_write]
  split <;> rfl

/-- A byte of data memory after a write to it. -/
theorem dmByte_write (s : State) (a b : Nat) (v : Byte) :
    ({ s with dm := Memory.write s.dm a v } : State).dmByte b = if b = a then v else s.dmByte b := by
  simp only [State.dmByte, find?_write]
  split <;> rfl

/-- The memory of the reset state is in canonical form. -/
theorem reset_memory_wf : State.reset.pm.wf ∧ State.reset.dm.wf := by
  constructor <;> exact List.Pairwise.nil

/-! ### Outcomes -/

theorem finish_ok {r : Except Fault State} {t : State} (h : r = .ok t) : finish r = .next t := by
  subst h; rfl

theorem finish_error {r : Except Fault State} {f : Fault} (h : r = .error f) : finish r = .fault f := by
  subst h; rfl

@[simp] theorem finish_eq_next {r : Except Fault State} {t : State} : finish r = .next t ↔ r = .ok t := by
  cases r <;> simp [finish]

@[simp] theorem finish_eq_fault {r : Except Fault State} {f : Fault} :
    finish r = .fault f ↔ r = .error f := by
  cases r <;> simp [finish]

@[simp] theorem finish_ne_refused (r : Except Fault State) (x : Refusal) : finish r ≠ .refused x := by
  cases r <;> simp [finish]

end Sys2Proof.Machine
end

