-- ==== Sys2Proof/Laws/Operands.lean ====
section
/-! SUPPORT. One lemma for each shared shape of instruction that says once everything it can do: where it
succeeds, and as which register writes (`_ok`), and that it succeeds nowhere else (`_inv`). -/

namespace Sys2Proof.Machine

open Sys2Proof.Claims

theorem guardFlags_ok {a : Byte} (h : a ≠ flagsAddr) : guardFlags a = .ok () := if_neg h

theorem guardFlags_flags : guardFlags flagsAddr = .error .unpredictable := if_pos rfl

theorem guardFlags_inv {a : Byte} {u : Unit} (h : guardFlags a = .ok u) : a ≠ flagsAddr := by
  intro e
  subst e
  cases h

/-- Storing elsewhere and then writing the flags is the two register writes. -/
theorem effect_write_setFlags {s t : State} {a v : Byte} (f : Flags) (ha : a ≠ flagsAddr)
    (e : Effect s t [(a, v)] s.pc) (len : Nat) :
    Effect s ((t.setFlags f).advance len) [(a, v), (flagsAddr, packFlags f (s.reg flagsAddr))]
      (s.pc + BitVec.ofNat 16 len) := by
  have hr : t.reg flagsAddr = s.reg flagsAddr := by
    rw [e.writes.regs]
    simp [after, lastWritten, ha]
  have e' := effect_setFlags t f
  rw [hr, e.pc] at e'
  exact (e.trans e').advance len

theorem binop_ok {f : Byte → Byte → Flags → Byte × Flags} {len : Nat} {dst v d : Byte}
    {src : Except Fault Byte} {s : State} (ha : dst ≠ flagsAddr) (hv : src = .ok v)
    (hd : s.read 2 dst = .ok d) :
    ∃ t, binop f len dst src s = .ok t ∧
      Effect s t [(dst, (f d v s.flags).1), (flagsAddr, packFlags (f d v s.flags).2 (s.reg flagsAddr))]
        (s.pc + BitVec.ofNat 16 len) := by
  obtain ⟨t, ht, e⟩ := write_ok (f d v s.flags).1 (implemented_of_read hd)
  refine ⟨_, ?_, effect_write_setFlags (f d v s.flags).2 ha e len⟩
  unfold binop
  rw [guardFlags_ok ha, ok_bind, hv, ok_bind, hd, ok_bind, ht, ok_bind]

theorem binop_inv {f : Byte → Byte → Flags → Byte × Flags} {len : Nat} {dst : Byte}
    {src : Except Fault Byte} {s t : State} (h : binop f len dst src s = .ok t) :
    dst ≠ flagsAddr ∧ ∃ v d, src = .ok v ∧ s.read 2 dst = .ok d ∧
      Effect s t [(dst, (f d v s.flags).1), (flagsAddr, packFlags (f d v s.flags).2 (s.reg flagsAddr))]
        (s.pc + BitVec.ofNat 16 len) := by
  obtain ⟨u, hu, h⟩ := bind_ok_inv h
  obtain ⟨v, hv, h⟩ := bind_ok_inv h
  obtain ⟨d, hd, h⟩ := bind_ok_inv h
  obtain ⟨w, hw, h⟩ := bind_ok_inv h
  cases h
  have ha := guardFlags_inv hu
  exact ⟨ha, v, d, hv, hd, effect_write_setFlags _ ha (write_inv hw).2 len⟩

theorem testop_ok {f : Byte → Byte → Flags → Byte × Flags} {len : Nat} {dst v d : Byte}
    {src : Except Fault Byte} {s : State} (hv : src = .ok v) (hd : s.read 2 dst = .ok d) :
    ∃ t, testop f len dst src s = .ok t ∧
      Effect s t [(flagsAddr, packFlags (f d v s.flags).2 (s.reg flagsAddr))]
        (s.pc + BitVec.ofNat 16 len) := by
  refine ⟨_, ?_, (effect_setFlags s (f d v s.flags).2).advance len⟩
  unfold testop
  rw [hv, ok_bind, hd, ok_bind]

theorem testop_inv {f : Byte → Byte → Flags → Byte × Flags} {len : Nat} {dst : Byte}
    {src : Except Fault Byte} {s t : State} (h : testop f len dst src s = .ok t) :
    ∃ v d, src = .ok v ∧ s.read 2 dst = .ok d ∧
      Effect s t [(flagsAddr, packFlags (f d v s.flags).2 (s.reg flagsAddr))]
        (s.pc + BitVec.ofNat 16 len) := by
  obtain ⟨v, hv, h⟩ := bind_ok_inv h
  obtain ⟨d, hd, h⟩ := bind_ok_inv h
  cases h
  exact ⟨v, d, hv, hd, (effect_setFlags s _).advance len⟩

theorem unop_ok {f : Byte → Flags → Byte × Flags} {len : Nat} {dst d : Byte} {s : State}
    (ha : dst ≠ flagsAddr) (hd : s.read 2 dst = .ok d) :
    ∃ t, unop f len dst s = .ok t ∧
      Effect s t [(dst, (f d s.flags).1), (flagsAddr, packFlags (f d s.flags).2 (s.reg flagsAddr))]
        (s.pc + BitVec.ofNat 16 len) := by
  obtain ⟨t, ht, e⟩ := write_ok (f d s.flags).1 (implemented_of_read hd)
  refine ⟨_, ?_, effect_write_setFlags (f d s.flags).2 ha e len⟩
  unfold unop
  rw [guardFlags_ok ha, ok_bind, hd, ok_bind, ht, ok_bind]

theorem unop_inv {f : Byte → Flags → Byte × Flags} {len : Nat} {dst : Byte} {s t : State}
    (h : unop f len dst s = .ok t) :
    dst ≠ flagsAddr ∧ ∃ d, s.read 2 dst = .ok d ∧
      Effect s t [(dst, (f d s.flags).1), (flagsAddr, packFlags (f d s.flags).2 (s.reg flagsAddr))]
        (s.pc + BitVec.ofNat 16 len) := by
  obtain ⟨u, hu, h⟩ := bind_ok_inv h
  obtain ⟨d, hd, h⟩ := bind_ok_inv h
  obtain ⟨w, hw, h⟩ := bind_ok_inv h
  cases h
  have ha := guardFlags_inv hu
  exact ⟨ha, d, hd, effect_write_setFlags _ ha (write_inv hw).2 len⟩

theorem unopThrough_eq {f : Byte → Flags → Byte × Flags} {len : Nat} {a b : Byte} {s : State}
    (h : s.through a = .ok b) : unopThrough f len a s = unop f len b s := by
  unfold unopThrough
  rw [h, ok_bind]

theorem loadReg_ok {len : Nat} {dst v : Byte} {src : Except Fault Byte} {s : State} (hv : src = .ok v)
    (hi : Implemented s dst) :
    ∃ t, loadReg len dst src s = .ok t ∧ Effect s t [(dst, v)] (s.pc + BitVec.ofNat 16 len) := by
  obtain ⟨t, ht, e⟩ := write_ok v hi
  refine ⟨_, ?_, e.advance len⟩
  unfold loadReg
  rw [hv, ok_bind, ht, ok_bind]

theorem loadReg_inv {len : Nat} {dst : Byte} {src : Except Fault Byte} {s t : State}
    (h : loadReg len dst src s = .ok t) :
    Implemented s dst ∧ ∃ v, src = .ok v ∧ Effect s t [(dst, v)] (s.pc + BitVec.ofNat 16 len) := by
  obtain ⟨v, hv, h⟩ := bind_ok_inv h
  obtain ⟨w, hw, h⟩ := bind_ok_inv h
  cases h
  exact ⟨(write_inv hw).1, v, hv, (write_inv hw).2.advance len⟩

theorem loadAt_eq {len : Nat} {loc src : Except Fault Byte} {a : Byte} {s : State} (h : loc = .ok a) :
    loadAt len loc src s = loadReg len a src s := by
  unfold loadAt
  rw [h, ok_bind]

theorem loadProgram_ok {len : Nat} {dst : WReg} {addr : Except Fault Addr} {a : Addr} {s : State}
    (ha : addr = .ok a) (hb : a.toNat < s.cfg.pmSize.val) :
    ∃ t, loadProgram len dst addr s = .ok t ∧
      Effect s t [(s.wr dst, s.pmByte a.toNat)] (s.pc + BitVec.ofNat 16 len) := by
  unfold loadProgram
  rw [ha, ok_bind]
  exact loadReg_ok (pmLoad_ok hb) (implemented_wr s dst)

theorem loadProgram_inv {len : Nat} {dst : WReg} {addr : Except Fault Addr} {s t : State}
    (h : loadProgram len dst addr s = .ok t) :
    ∃ a, addr = .ok a ∧ a.toNat < s.cfg.pmSize.val ∧
      Effect s t [(s.wr dst, s.pmByte a.toNat)] (s.pc + BitVec.ofNat 16 len) := by
  obtain ⟨a, ha, h⟩ := bind_ok_inv h
  obtain ⟨-, v, hv, e⟩ := loadReg_inv h
  obtain ⟨hb, rfl⟩ := pmLoad_inv hv
  exact ⟨a, ha, hb, e⟩

theorem loadData_ok {len : Nat} {dst : WReg} {addr : Except Fault Addr} {a : Addr} {s : State}
    (ha : addr = .ok a) (hb : a.toNat < s.cfg.dmSize.val) :
    ∃ t, loadData len dst addr s = .ok t ∧
      Effect s t [(s.wr dst, s.dmByte a.toNat)] (s.pc + BitVec.ofNat 16 len) := by
  unfold loadData
  rw [ha, ok_bind]
  exact loadReg_ok (dmLoad_ok hb) (implemented_wr s dst)

theorem loadData_inv {len : Nat} {dst : WReg} {addr : Except Fault Addr} {s t : State}
    (h : loadData len dst addr s = .ok t) :
    ∃ a, addr = .ok a ∧ a.toNat < s.cfg.dmSize.val ∧
      Effect s t [(s.wr dst, s.dmByte a.toNat)] (s.pc + BitVec.ofNat 16 len) := by
  obtain ⟨a, ha, h⟩ := bind_ok_inv h
  obtain ⟨-, v, hv, e⟩ := loadReg_inv h
  obtain ⟨hb, rfl⟩ := dmLoad_inv hv
  exact ⟨a, ha, hb, e⟩

/-- Everything an LDC store can do: the state it leaves, written out. -/
theorem storeProgram_inv {len : Nat} {addr : Except Fault Addr} {src : WReg} {s t : State}
    (h : storeProgram len addr src s = .ok t) :
    ∃ a v, addr = .ok a ∧ s.read 2 (s.wr src) = .ok v ∧ s.cfg.pmWritable = true ∧
      a.toNat < s.cfg.pmSize.val ∧
      t = ({ s with
        pm := Memory.write s.pm a.toNat v
        pmWritten := insertAddr s.pmWritten a.toNat } : State).advance len := by
  obtain ⟨a, ha, h⟩ := bind_ok_inv h
  obtain ⟨v, hv, h⟩ := bind_ok_inv h
  obtain ⟨w, hw, h⟩ := bind_ok_inv h
  cases h
  obtain ⟨h1, h2, rfl⟩ := pmStore_inv hw
  exact ⟨a, v, ha, hv, h1, h2, rfl⟩

/-- Everything an LDE store can do: the state it leaves, written out. -/
theorem storeData_inv {len : Nat} {addr : Except Fault Addr} {src : WReg} {s t : State}
    (h : storeData len addr src s = .ok t) :
    ∃ a v, addr = .ok a ∧ s.read 2 (s.wr src) = .ok v ∧ a.toNat < s.cfg.dmSize.val ∧
      t = ({ s with dm := Memory.write s.dm a.toNat v } : State).advance len := by
  obtain ⟨a, ha, h⟩ := bind_ok_inv h
  obtain ⟨v, hv, h⟩ := bind_ok_inv h
  obtain ⟨w, hw, h⟩ := bind_ok_inv h
  cases h
  obtain ⟨h1, rfl⟩ := dmStore_inv hw
  exact ⟨a, v, ha, hv, h1, rfl⟩

theorem loadStep_ok {load : State → Addr → Except Fault Byte} {delta : Addr} {dst : WReg} {p : Pair}
    {s : State} {a : Addr} {v : Byte} (h0 : s.wr dst ≠ s.pairAddr p) (h1 : s.wr dst ≠ s.pairAddr p + 1#8)
    (ha : s.addrIrr p = .ok a) (hv : load s a = .ok v) :
    ∃ t, loadStep load delta dst p s = .ok t ∧
      Effect s t [(s.wr dst, v), (s.pairAddr p, hiByte (a + delta)),
        (s.pairAddr p + 1#8, loByte (a + delta))] (s.pc + 2#16) := by
  obtain ⟨t, ht, e⟩ := write_ok v (implemented_wr s dst)
  obtain ⟨u, hu, e'⟩ := writePair_ok (s := t) (a + delta)
    ((Implemented.congr e.control.cfg).2 (implemented_pair s p).1)
    ((Implemented.congr e.control.cfg).2 (implemented_pair s p).2)
  rw [e.pc] at e'
  refine ⟨_, ?_, (e.trans e').advance 2⟩
  unfold loadStep
  rw [if_neg (by simp [h0, h1]), ha, ok_bind, hv, ok_bind, ht, ok_bind, hu, ok_bind]

theorem loadStep_inv {load : State → Addr → Except Fault Byte} {delta : Addr} {dst : WReg} {p : Pair}
    {s t : State} (h : loadStep load delta dst p s = .ok t) :
    s.wr dst ≠ s.pairAddr p ∧ s.wr dst ≠ s.pairAddr p + 1#8 ∧
    ∃ a v, s.addrIrr p = .ok a ∧ load s a = .ok v ∧
      Effect s t [(s.wr dst, v), (s.pairAddr p, hiByte (a + delta)),
        (s.pairAddr p + 1#8, loByte (a + delta))] (s.pc + 2#16) := by
  have h' := h
  unfold loadStep at h'
  split at h'
  · cases h'
  · rename_i hn
    obtain ⟨h0, h1⟩ := not_or.1 hn
    obtain ⟨a, ha, h'⟩ := bind_ok_inv h'
    obtain ⟨v, hv, h'⟩ := bind_ok_inv h'
    obtain ⟨u, hu, e⟩ := loadStep_ok (delta := delta) h0 h1 ha hv
    rw [h] at hu
    cases hu
    exact ⟨h0, h1, a, v, ha, hv, e⟩

theorem popTo_ok {dst v : Byte} {s : State} (hd : dst ≠ spAddr) (hv : s.read 1 s.sp = .ok v)
    (hi : Implemented s dst) :
    ∃ t, popTo dst s = .ok t ∧ Effect s t [(dst, v), (spAddr, s.sp + 1#8)] (s.pc + 2#16) := by
  obtain ⟨t, ht, e⟩ := write_ok v hi
  have hsp : t.sp = s.sp := by
    show t.reg spAddr = _
    rw [e.writes.regs]
    simp [after, lastWritten, hd, State.sp]
  have e' := effect_setReg (s := t) (a := spAddr) (t.sp + 1#8) (by simp)
  rw [e.pc] at e'
  have e2 := (e.trans e').advance 2
  rw [hsp] at e2
  refine ⟨_, ?_, e2⟩
  unfold popTo
  rw [if_neg hd, hv, ok_bind, ht, ok_bind, hsp]

theorem popTo_inv {dst : Byte} {s t : State} (h : popTo dst s = .ok t) :
    dst ≠ spAddr ∧ Implemented s dst ∧ ∃ v, s.read 1 s.sp = .ok v ∧
      Effect s t [(dst, v), (spAddr, s.sp + 1#8)] (s.pc + 2#16) := by
  have h' := h
  unfold popTo at h'
  split at h'
  · cases h'
  · rename_i hd
    obtain ⟨v, hv, h'⟩ := bind_ok_inv h'
    obtain ⟨w, hw, -⟩ := bind_ok_inv h'
    obtain ⟨u, hu, e⟩ := popTo_ok hd hv (write_inv hw).1
    rw [h] at hu
    cases hu
    exact ⟨hd, (write_inv hw).1, v, hv, e⟩

theorem pushFrom_ok {src v : Byte} {s : State} (hs : src ≠ spAddr) (hv : s.read 1 src = .ok v)
    (hi : Implemented s (s.sp - 1#8)) :
    ∃ t, pushFrom src s = .ok t ∧
      Effect s t [(spAddr, s.sp - 1#8), (s.sp - 1#8, v)] (s.pc + 2#16) := by
  obtain ⟨t, ht, e⟩ := push_ok v hi
  refine ⟨_, ?_, e.advance 2⟩
  unfold pushFrom
  rw [if_neg hs, hv, ok_bind, ht, ok_bind]

theorem pushFrom_inv {src : Byte} {s t : State} (h : pushFrom src s = .ok t) :
    src ≠ spAddr ∧ Implemented s (s.sp - 1#8) ∧ ∃ v, s.read 1 src = .ok v ∧
      Effect s t [(spAddr, s.sp - 1#8), (s.sp - 1#8, v)] (s.pc + 2#16) := by
  have h' := h
  unfold pushFrom at h'
  split at h'
  · cases h'
  · rename_i hs
    obtain ⟨v, hv, h'⟩ := bind_ok_inv h'
    obtain ⟨w, hw, -⟩ := bind_ok_inv h'
    obtain ⟨u, hu, e⟩ := pushFrom_ok hs hv (push_inv hw).1
    rw [h] at hu
    cases hu
    exact ⟨hs, (push_inv hw).1, v, hv, e⟩

/-- SP after register writes, as the next push finds it. -/
theorem sp_of_effect {s t : State} {ws : List (Byte × Byte)} {p : Addr} (e : Effect s t ws p) :
    t.sp = after s ws spAddr := e.writes.regs spAddr

/-- One more push after register writes. -/
theorem push_after {s t : State} {ws : List (Byte × Byte)} (v : Byte) (e : Effect s t ws s.pc)
    (hi : Implemented s (after s ws spAddr - 1#8)) :
    ∃ u, t.push v = .ok u ∧
      Effect s u (ws ++ [(spAddr, after s ws spAddr - 1#8), (after s ws spAddr - 1#8, v)]) s.pc := by
  have hsp := sp_of_effect e
  rw [← hsp] at hi
  obtain ⟨u, hu, e'⟩ := push_ok v ((Implemented.congr e.control.cfg).2 hi)
  rw [e.pc, hsp] at e'
  exact ⟨u, hu, e.trans e'⟩

theorem callTo_ok {len : Nat} {target : Addr} {s : State}
    (hi : AllImplemented s (pushes s [] [loByte (s.npc len), hiByte (s.npc len)])) :
    ∃ t, callTo len target s = .ok t ∧
      Effect s t (pushes s [] [loByte (s.npc len), hiByte (s.npc len)]) target := by
  have h1 : Implemented s (after s [] spAddr - 1#8) :=
    hi (after s [] spAddr - 1#8, loByte (s.npc len)) (by simp [pushes])
  obtain ⟨t, ht, e⟩ := push_after (loByte (s.npc len)) (Effect.refl s) h1
  have h2 := hi (_, hiByte (s.npc len)) (by
    simp only [pushes, List.mem_append, List.mem_cons]
    exact .inr (.inr (.inl rfl)))
  obtain ⟨u, hu, e'⟩ := push_after (hiByte (s.npc len)) e h2
  refine ⟨_, ?_, e'.setPc target⟩
  unfold callTo
  rw [ht, ok_bind, hu, ok_bind]

/-- Everything the two pushes of a call can do. -/
theorem callTo_inv {len : Nat} {target : Addr} {s t : State} (h : callTo len target s = .ok t) :
    AllImplemented s (pushes s [] [loByte (s.npc len), hiByte (s.npc len)]) ∧
      Effect s t (pushes s [] [loByte (s.npc len), hiByte (s.npc len)]) target := by
  have h' := h
  obtain ⟨s1, h1, h'⟩ := bind_ok_inv h'
  obtain ⟨s2, h2, h'⟩ := bind_ok_inv h'
  obtain ⟨i1, e1⟩ := push_inv h1
  obtain ⟨i2, -⟩ := push_inv h2
  have hw : AllImplemented s (pushes s [] [loByte (s.npc len), hiByte (s.npc len)]) := by
    rw [sp_of_effect e1, Implemented.congr e1.control.cfg] at i2
    have isp : Implemented s spAddr := by simp [Implemented]
    intro w hw
    simp only [pushes, List.nil_append, List.cons_append, List.mem_cons, List.not_mem_nil, or_false,
      after_nil] at hw
    rcases hw with rfl | rfl | rfl | rfl
    · exact isp
    · exact i1
    · exact isp
    · exact i2
  obtain ⟨u, hu, e⟩ := callTo_ok (target := target) hw
  rw [h] at hu
  cases hu
  exact ⟨hw, e⟩

theorem returnFromCall_ok {hi lo : Byte} {s : State} (hh : s.read 0 s.sp = .ok hi)
    (hl : (s.setReg spAddr (s.sp + 1#8)).read 1 (s.sp + 1#8) = .ok lo) :
    ∃ t, returnFromCall s = .ok t ∧
      Effect s t [(spAddr, s.sp + 1#8), (spAddr, s.sp + 1#8 + 1#8)] (word16 hi lo) := by
  have e := effect_setReg (s := s) (a := spAddr) (s.sp + 1#8) (by simp)
  have e' := effect_setReg (s := s.setReg spAddr (s.sp + 1#8)) (a := spAddr) (s.sp + 1#8 + 1#8) (by simp)
  refine ⟨_, ?_, (e.trans e').setPc (word16 hi lo)⟩
  unfold returnFromCall
  rw [pop_ok hh, ok_bind]
  rw [pop_ok (s := s.setReg spAddr (s.sp + 1#8)) (v := lo) (by rw [sp_setReg_sp]; exact hl), ok_bind,
    sp_setReg_sp]

/-- Everything RET can do. -/
theorem returnFromCall_inv {s t : State} (h : returnFromCall s = .ok t) :
    ∃ hi lo, s.read 0 s.sp = .ok hi ∧ (s.setReg spAddr (s.sp + 1#8)).read 1 (s.sp + 1#8) = .ok lo ∧
      Effect s t [(spAddr, s.sp + 1#8), (spAddr, s.sp + 1#8 + 1#8)] (word16 hi lo) := by
  have h' := h
  obtain ⟨⟨hi, s1⟩, h1, h'⟩ := bind_ok_inv h'
  obtain ⟨⟨lo, s2⟩, h2, h'⟩ := bind_ok_inv h'
  obtain ⟨hh, e1⟩ := pop_inv h1
  simp only at hh e1
  subst e1
  obtain ⟨hl, -⟩ := pop_inv h2
  simp only [sp_setReg_sp] at hl
  obtain ⟨u, hu, e⟩ := returnFromCall_ok hh hl
  rw [h] at hu
  cases hu
  exact ⟨hi, lo, hh, hl, e⟩

/-- IRET as register writes: FLAGS, PCH and PCL popped in turn, and SYM.2 set. -/
theorem returnFromInterrupt_ok {F hi lo : Byte} {s : State} (h0 : s.read 0 s.sp = .ok F)
    (h1 : ((s.setReg spAddr (s.sp + 1#8)).setReg flagsAddr F).read 1 (s.sp + 1#8) = .ok hi)
    (h2 : (((s.setReg spAddr (s.sp + 1#8)).setReg flagsAddr F).setReg spAddr (s.sp + 1#8 + 1#8)).read 2
      (s.sp + 1#8 + 1#8) = .ok lo) :
    let ws := [(spAddr, s.sp + 1#8), (flagsAddr, F), (spAddr, s.sp + 1#8 + 1#8),
      (spAddr, s.sp + 1#8 + 1#8 + 1#8)]
    ∃ t, returnFromInterrupt s = .ok t ∧
      Effect s t (ws ++ [(s.cfg.symAddr, after s ws s.cfg.symAddr ||| 0x04#8)]) (word16 hi lo) := by
  intro ws
  have e1 := effect_setReg (s := s) (a := spAddr) (s.sp + 1#8) (by simp)
  have e2 := effect_setReg (s := s.setReg spAddr (s.sp + 1#8)) (a := flagsAddr) F (by simp)
  have e3 := effect_setReg (s := (s.setReg spAddr (s.sp + 1#8)).setReg flagsAddr F) (a := spAddr)
    (s.sp + 1#8 + 1#8) (by simp)
  have e4 := effect_setReg
    (s := ((s.setReg spAddr (s.sp + 1#8)).setReg flagsAddr F).setReg spAddr (s.sp + 1#8 + 1#8))
    (a := spAddr) (s.sp + 1#8 + 1#8 + 1#8) (by simp)
  have e : Effect s _ ws s.pc := ((e1.trans e2).trans e3).trans e4
  have e5 := effect_setReg
    (s := (((s.setReg spAddr (s.sp + 1#8)).setReg flagsAddr F).setReg spAddr (s.sp + 1#8 + 1#8)).setReg
      spAddr (s.sp + 1#8 + 1#8 + 1#8)) (a := s.cfg.symAddr) (after s ws s.cfg.symAddr ||| 0x04#8) (by simp)
  refine ⟨_, ?_, (e.trans e5).setPc (word16 hi lo)⟩
  unfold returnFromInterrupt
  rw [pop_ok h0, ok_bind]
  have hw : (s.setReg spAddr (s.sp + 1#8)).write flagsAddr F =
      .ok ((s.setReg spAddr (s.sp + 1#8)).setReg flagsAddr F) := by
    simp [State.write]
  rw [hw, ok_bind]
  have hs1 : ((s.setReg spAddr (s.sp + 1#8)).setReg flagsAddr F).sp = s.sp + 1#8 := by simp
  rw [pop_ok (s := (s.setReg spAddr (s.sp + 1#8)).setReg flagsAddr F) (v := hi) (by rw [hs1]; exact h1),
    ok_bind, hs1]
  rw [pop_ok (v := lo) (by simp only [sp_setReg_sp]; exact h2), ok_bind, sp_setReg_sp]
  unfold State.enableInterrupts
  have hr := e.writes.regs s.cfg.symAddr
  simp only [setReg_cfg]
  rw [hr]

/-- Interrupt entry as register writes: PCL, PCH and FLAGS pushed in turn, and SYM.2 cleared; pc from the
vector. `F` is FLAGS as a read after the first two pushes finds it. -/
theorem takeInterrupt_ok {s : State}
    (hi : AllImplemented s (pushes s [] [loByte s.pc, hiByte s.pc, 0#8]))
    (hv : s.cfg.intVector.toNat < s.cfg.pmSize.val)
    (hv' : (s.cfg.intVector + 1#16).toNat < s.cfg.pmSize.val) :
    ∃ F t, hiNib F = hiNib (after s (pushes s [] [loByte s.pc, hiByte s.pc]) flagsAddr) ∧
      takeInterrupt s = .ok t ∧
      let ws := pushes s [] [loByte s.pc, hiByte s.pc, F]
      Effect s t (ws ++ [(s.cfg.symAddr, after s ws s.cfg.symAddr &&& 0xFB#8)])
        (word16 (s.pmByte s.cfg.intVector.toNat) (s.pmByte (s.cfg.intVector + 1#16).toNat)) := by
  have i1 : Implemented s (after s [] spAddr - 1#8) := hi (_, loByte s.pc) (by simp [pushes])
  obtain ⟨s1, h1, e1⟩ := push_after (loByte s.pc) (Effect.refl s) i1
  have i2 := hi (_, hiByte s.pc) (List.mem_append_left _ (List.mem_append_right _
    (List.mem_cons_of_mem _ (List.mem_cons_self ..))))
  obtain ⟨s2, h2, e2⟩ := push_after (hiByte s.pc) e1 i2
  have i3 := hi (_, 0#8) (List.mem_append_right _ (List.mem_cons_of_mem _ (List.mem_cons_self ..)))
  obtain ⟨s3, h3, e3⟩ := push_after (s2.flagsRead 0) e2 i3
  have hc := e3.control.cfg
  have e4 := effect_setReg (s := s3) (a := s.cfg.symAddr)
    (after s (pushes s [] [loByte s.pc, hiByte s.pc, s2.flagsRead 0]) s.cfg.symAddr &&& 0xFB#8)
    (by rw [← hc]; simp)
  refine ⟨s2.flagsRead 0, _, ?_, ?_, (e3.trans e4).setPc _⟩
  · rw [State.flagsRead, hiNib_joinNib, e2.writes.regs]
    rfl
  · unfold takeInterrupt
    rw [h1, ok_bind, h2, ok_bind, read_flags, ok_bind, h3, ok_bind]
    have hd : s3.disableInterrupts = s3.setReg s.cfg.symAddr
        (after s (pushes s [] [loByte s.pc, hiByte s.pc, s2.flagsRead 0]) s.cfg.symAddr &&& 0xFB#8) := by
      unfold State.disableInterrupts
      rw [hc, e3.writes.regs]
      rfl
    rw [hd]
    simp only [setReg_cfg, hc]
    rw [pmLoad_ok (by simpa [hc] using hv), ok_bind, pmLoad_ok (by simpa [hc] using hv'), ok_bind]
    have hp : ∀ a, (s3.setReg s.cfg.symAddr (after s
        (pushes s [] [loByte s.pc, hiByte s.pc, s2.flagsRead 0]) s.cfg.symAddr &&& 0xFB#8)).pmByte a =
        s.pmByte a := e3.memory.program
    rw [hp, hp]

end Sys2Proof.Machine
end

