-- ==== Sys2Proof/Laws/PerInstr.lean ====
section
/-! SUPPORT. Statements for all instructions, made per instruction. EncodedLength: the bytes of an instruction
are as many as its first byte says (30_encoding R60, R69). -/

/-- The encoding is not empty, has at most four bytes, and its first byte gives its length. -/
def Sys2Proof.Laws.EncodedLength.Statement (i : Sys2Proof.Instr) : Prop :=
  ∃ b bs, Sys2Proof.encode i = b :: bs ∧ Sys2Proof.opLength b = some (bs.length + 1) ∧ bs.length + 1 ≤ 4

namespace Sys2Proof.Laws

theorem EncodedLength.add_r_r (dst : WReg) (src : WReg) : EncodedLength.Statement (.add_r_r dst src) :=
  ⟨_, _, rfl, rfl, Nat.le_of_ble_eq_true rfl⟩
theorem EncodedLength.add_r_ir (dst : WReg) (src : WReg) : EncodedLength.Statement (.add_r_ir dst src) :=
  ⟨_, _, rfl, rfl, Nat.le_of_ble_eq_true rfl⟩
theorem EncodedLength.add_reg_reg (dst : Byte) (src : Byte) :
    EncodedLength.Statement (.add_reg_reg dst src) :=
  ⟨_, _, rfl, rfl, Nat.le_of_ble_eq_true rfl⟩
theorem EncodedLength.add_reg_ireg (dst : Byte) (src : Byte) :
    EncodedLength.Statement (.add_reg_ireg dst src) :=
  ⟨_, _, rfl, rfl, Nat.le_of_ble_eq_true rfl⟩
theorem EncodedLength.add_reg_im (dst : Byte) (im : Byte) : EncodedLength.Statement (.add_reg_im dst im) :=
  ⟨_, _, rfl, rfl, Nat.le_of_ble_eq_true rfl⟩
theorem EncodedLength.adc_r_r (dst : WReg) (src : WReg) : EncodedLength.Statement (.adc_r_r dst src) :=
  ⟨_, _, rfl, rfl, Nat.le_of_ble_eq_true rfl⟩
theorem EncodedLength.adc_r_ir (dst : WReg) (src : WReg) : EncodedLength.Statement (.adc_r_ir dst src) :=
  ⟨_, _, rfl, rfl, Nat.le_of_ble_eq_true rfl⟩
theorem EncodedLength.adc_reg_reg (dst : Byte) (src : Byte) :
    EncodedLength.Statement (.adc_reg_reg dst src) :=
  ⟨_, _, rfl, rfl, Nat.le_of_ble_eq_true rfl⟩
theorem EncodedLength.adc_reg_ireg (dst : Byte) (src : Byte) :
    EncodedLength.Statement (.adc_reg_ireg dst src) :=
  ⟨_, _, rfl, rfl, Nat.le_of_ble_eq_true rfl⟩
theorem EncodedLength.adc_reg_im (dst : Byte) (im : Byte) : EncodedLength.Statement (.adc_reg_im dst im) :=
  ⟨_, _, rfl, rfl, Nat.le_of_ble_eq_true rfl⟩
theorem EncodedLength.sub_r_r (dst : WReg) (src : WReg) : EncodedLength.Statement (.sub_r_r dst src) :=
  ⟨_, _, rfl, rfl, Nat.le_of_ble_eq_true rfl⟩
theorem EncodedLength.sub_r_ir (dst : WReg) (src : WReg) : EncodedLength.Statement (.sub_r_ir dst src) :=
  ⟨_, _, rfl, rfl, Nat.le_of_ble_eq_true rfl⟩
theorem EncodedLength.sub_reg_reg (dst : Byte) (src : Byte) :
    EncodedLength.Statement (.sub_reg_reg dst src) :=
  ⟨_, _, rfl, rfl, Nat.le_of_ble_eq_true rfl⟩
theorem EncodedLength.sub_reg_ireg (dst : Byte) (src : Byte) :
    EncodedLength.Statement (.sub_reg_ireg dst src) :=
  ⟨_, _, rfl, rfl, Nat.le_of_ble_eq_true rfl⟩
theorem EncodedLength.sub_reg_im (dst : Byte) (im : Byte) : EncodedLength.Statement (.sub_reg_im dst im) :=
  ⟨_, _, rfl, rfl, Nat.le_of_ble_eq_true rfl⟩
theorem EncodedLength.sbc_r_r (dst : WReg) (src : WReg) : EncodedLength.Statement (.sbc_r_r dst src) :=
  ⟨_, _, rfl, rfl, Nat.le_of_ble_eq_true rfl⟩
theorem EncodedLength.sbc_r_ir (dst : WReg) (src : WReg) : EncodedLength.Statement (.sbc_r_ir dst src) :=
  ⟨_, _, rfl, rfl, Nat.le_of_ble_eq_true rfl⟩
theorem EncodedLength.sbc_reg_reg (dst : Byte) (src : Byte) :
    EncodedLength.Statement (.sbc_reg_reg dst src) :=
  ⟨_, _, rfl, rfl, Nat.le_of_ble_eq_true rfl⟩
theorem EncodedLength.sbc_reg_ireg (dst : Byte) (src : Byte) :
    EncodedLength.Statement (.sbc_reg_ireg dst src) :=
  ⟨_, _, rfl, rfl, Nat.le_of_ble_eq_true rfl⟩
theorem EncodedLength.sbc_reg_im (dst : Byte) (im : Byte) : EncodedLength.Statement (.sbc_reg_im dst im) :=
  ⟨_, _, rfl, rfl, Nat.le_of_ble_eq_true rfl⟩
theorem EncodedLength.or_r_r (dst : WReg) (src : WReg) : EncodedLength.Statement (.or_r_r dst src) :=
  ⟨_, _, rfl, rfl, Nat.le_of_ble_eq_true rfl⟩
theorem EncodedLength.or_r_ir (dst : WReg) (src : WReg) : EncodedLength.Statement (.or_r_ir dst src) :=
  ⟨_, _, rfl, rfl, Nat.le_of_ble_eq_true rfl⟩
theorem EncodedLength.or_reg_reg (dst : Byte) (src : Byte) : EncodedLength.Statement (.or_reg_reg dst src) :=
  ⟨_, _, rfl, rfl, Nat.le_of_ble_eq_true rfl⟩
theorem EncodedLength.or_reg_ireg (dst : Byte) (src : Byte) :
    EncodedLength.Statement (.or_reg_ireg dst src) :=
  ⟨_, _, rfl, rfl, Nat.le_of_ble_eq_true rfl⟩
theorem EncodedLength.or_reg_im (dst : Byte) (im : Byte) : EncodedLength.Statement (.or_reg_im dst im) :=
  ⟨_, _, rfl, rfl, Nat.le_of_ble_eq_true rfl⟩
theorem EncodedLength.and_r_r (dst : WReg) (src : WReg) : EncodedLength.Statement (.and_r_r dst src) :=
  ⟨_, _, rfl, rfl, Nat.le_of_ble_eq_true rfl⟩
theorem EncodedLength.and_r_ir (dst : WReg) (src : WReg) : EncodedLength.Statement (.and_r_ir dst src) :=
  ⟨_, _, rfl, rfl, Nat.le_of_ble_eq_true rfl⟩
theorem EncodedLength.and_reg_reg (dst : Byte) (src : Byte) :
    EncodedLength.Statement (.and_reg_reg dst src) :=
  ⟨_, _, rfl, rfl, Nat.le_of_ble_eq_true rfl⟩
theorem EncodedLength.and_reg_ireg (dst : Byte) (src : Byte) :
    EncodedLength.Statement (.and_reg_ireg dst src) :=
  ⟨_, _, rfl, rfl, Nat.le_of_ble_eq_true rfl⟩
theorem EncodedLength.and_reg_im (dst : Byte) (im : Byte) : EncodedLength.Statement (.and_reg_im dst im) :=
  ⟨_, _, rfl, rfl, Nat.le_of_ble_eq_true rfl⟩
theorem EncodedLength.tcm_r_r (dst : WReg) (src : WReg) : EncodedLength.Statement (.tcm_r_r dst src) :=
  ⟨_, _, rfl, rfl, Nat.le_of_ble_eq_true rfl⟩
theorem EncodedLength.tcm_r_ir (dst : WReg) (src : WReg) : EncodedLength.Statement (.tcm_r_ir dst src) :=
  ⟨_, _, rfl, rfl, Nat.le_of_ble_eq_true rfl⟩
theorem EncodedLength.tcm_reg_reg (dst : Byte) (src : Byte) :
    EncodedLength.Statement (.tcm_reg_reg dst src) :=
  ⟨_, _, rfl, rfl, Nat.le_of_ble_eq_true rfl⟩
theorem EncodedLength.tcm_reg_ireg (dst : Byte) (src : Byte) :
    EncodedLength.Statement (.tcm_reg_ireg dst src) :=
  ⟨_, _, rfl, rfl, Nat.le_of_ble_eq_true rfl⟩
theorem EncodedLength.tcm_reg_im (dst : Byte) (im : Byte) : EncodedLength.Statement (.tcm_reg_im dst im) :=
  ⟨_, _, rfl, rfl, Nat.le_of_ble_eq_true rfl⟩
theorem EncodedLength.tm_r_r (dst : WReg) (src : WReg) : EncodedLength.Statement (.tm_r_r dst src) :=
  ⟨_, _, rfl, rfl, Nat.le_of_ble_eq_true rfl⟩
theorem EncodedLength.tm_r_ir (dst : WReg) (src : WReg) : EncodedLength.Statement (.tm_r_ir dst src) :=
  ⟨_, _, rfl, rfl, Nat.le_of_ble_eq_true rfl⟩
theorem EncodedLength.tm_reg_reg (dst : Byte) (src : Byte) : EncodedLength.Statement (.tm_reg_reg dst src) :=
  ⟨_, _, rfl, rfl, Nat.le_of_ble_eq_true rfl⟩
theorem EncodedLength.tm_reg_ireg (dst : Byte) (src : Byte) :
    EncodedLength.Statement (.tm_reg_ireg dst src) :=
  ⟨_, _, rfl, rfl, Nat.le_of_ble_eq_true rfl⟩
theorem EncodedLength.tm_reg_im (dst : Byte) (im : Byte) : EncodedLength.Statement (.tm_reg_im dst im) :=
  ⟨_, _, rfl, rfl, Nat.le_of_ble_eq_true rfl⟩
theorem EncodedLength.cp_r_r (dst : WReg) (src : WReg) : EncodedLength.Statement (.cp_r_r dst src) :=
  ⟨_, _, rfl, rfl, Nat.le_of_ble_eq_true rfl⟩
theorem EncodedLength.cp_r_ir (dst : WReg) (src : WReg) : EncodedLength.Statement (.cp_r_ir dst src) :=
  ⟨_, _, rfl, rfl, Nat.le_of_ble_eq_true rfl⟩
theorem EncodedLength.cp_reg_reg (dst : Byte) (src : Byte) : EncodedLength.Statement (.cp_reg_reg dst src) :=
  ⟨_, _, rfl, rfl, Nat.le_of_ble_eq_true rfl⟩
theorem EncodedLength.cp_reg_ireg (dst : Byte) (src : Byte) :
    EncodedLength.Statement (.cp_reg_ireg dst src) :=
  ⟨_, _, rfl, rfl, Nat.le_of_ble_eq_true rfl⟩
theorem EncodedLength.cp_reg_im (dst : Byte) (im : Byte) : EncodedLength.Statement (.cp_reg_im dst im) :=
  ⟨_, _, rfl, rfl, Nat.le_of_ble_eq_true rfl⟩
theorem EncodedLength.xor_r_r (dst : WReg) (src : WReg) : EncodedLength.Statement (.xor_r_r dst src) :=
  ⟨_, _, rfl, rfl, Nat.le_of_ble_eq_true rfl⟩
theorem EncodedLength.xor_r_ir (dst : WReg) (src : WReg) : EncodedLength.Statement (.xor_r_ir dst src) :=
  ⟨_, _, rfl, rfl, Nat.le_of_ble_eq_true rfl⟩
theorem EncodedLength.xor_reg_reg (dst : Byte) (src : Byte) :
    EncodedLength.Statement (.xor_reg_reg dst src) :=
  ⟨_, _, rfl, rfl, Nat.le_of_ble_eq_true rfl⟩
theorem EncodedLength.xor_reg_ireg (dst : Byte) (src : Byte) :
    EncodedLength.Statement (.xor_reg_ireg dst src) :=
  ⟨_, _, rfl, rfl, Nat.le_of_ble_eq_true rfl⟩
theorem EncodedLength.xor_reg_im (dst : Byte) (im : Byte) : EncodedLength.Statement (.xor_reg_im dst im) :=
  ⟨_, _, rfl, rfl, Nat.le_of_ble_eq_true rfl⟩
theorem EncodedLength.dec_reg (dst : Byte) : EncodedLength.Statement (.dec_reg dst) :=
  ⟨_, _, rfl, rfl, Nat.le_of_ble_eq_true rfl⟩
theorem EncodedLength.dec_ireg (dst : Byte) : EncodedLength.Statement (.dec_ireg dst) :=
  ⟨_, _, rfl, rfl, Nat.le_of_ble_eq_true rfl⟩
theorem EncodedLength.rlc_reg (dst : Byte) : EncodedLength.Statement (.rlc_reg dst) :=
  ⟨_, _, rfl, rfl, Nat.le_of_ble_eq_true rfl⟩
theorem EncodedLength.rlc_ireg (dst : Byte) : EncodedLength.Statement (.rlc_ireg dst) :=
  ⟨_, _, rfl, rfl, Nat.le_of_ble_eq_true rfl⟩
theorem EncodedLength.inc_reg (dst : Byte) : EncodedLength.Statement (.inc_reg dst) :=
  ⟨_, _, rfl, rfl, Nat.le_of_ble_eq_true rfl⟩
theorem EncodedLength.inc_ireg (dst : Byte) : EncodedLength.Statement (.inc_ireg dst) :=
  ⟨_, _, rfl, rfl, Nat.le_of_ble_eq_true rfl⟩
theorem EncodedLength.pop_reg (dst : Byte) : EncodedLength.Statement (.pop_reg dst) :=
  ⟨_, _, rfl, rfl, Nat.le_of_ble_eq_true rfl⟩
theorem EncodedLength.pop_ireg (dst : Byte) : EncodedLength.Statement (.pop_ireg dst) :=
  ⟨_, _, rfl, rfl, Nat.le_of_ble_eq_true rfl⟩
theorem EncodedLength.com_reg (dst : Byte) : EncodedLength.Statement (.com_reg dst) :=
  ⟨_, _, rfl, rfl, Nat.le_of_ble_eq_true rfl⟩
theorem EncodedLength.com_ireg (dst : Byte) : EncodedLength.Statement (.com_ireg dst) :=
  ⟨_, _, rfl, rfl, Nat.le_of_ble_eq_true rfl⟩
theorem EncodedLength.push_reg (src : Byte) : EncodedLength.Statement (.push_reg src) :=
  ⟨_, _, rfl, rfl, Nat.le_of_ble_eq_true rfl⟩
theorem EncodedLength.push_ireg (src : Byte) : EncodedLength.Statement (.push_ireg src) :=
  ⟨_, _, rfl, rfl, Nat.le_of_ble_eq_true rfl⟩
theorem EncodedLength.rl_reg (dst : Byte) : EncodedLength.Statement (.rl_reg dst) :=
  ⟨_, _, rfl, rfl, Nat.le_of_ble_eq_true rfl⟩
theorem EncodedLength.rl_ireg (dst : Byte) : EncodedLength.Statement (.rl_ireg dst) :=
  ⟨_, _, rfl, rfl, Nat.le_of_ble_eq_true rfl⟩
theorem EncodedLength.clr_reg (dst : Byte) : EncodedLength.Statement (.clr_reg dst) :=
  ⟨_, _, rfl, rfl, Nat.le_of_ble_eq_true rfl⟩
theorem EncodedLength.clr_ireg (dst : Byte) : EncodedLength.Statement (.clr_ireg dst) :=
  ⟨_, _, rfl, rfl, Nat.le_of_ble_eq_true rfl⟩
theorem EncodedLength.rrc_reg (dst : Byte) : EncodedLength.Statement (.rrc_reg dst) :=
  ⟨_, _, rfl, rfl, Nat.le_of_ble_eq_true rfl⟩
theorem EncodedLength.rrc_ireg (dst : Byte) : EncodedLength.Statement (.rrc_ireg dst) :=
  ⟨_, _, rfl, rfl, Nat.le_of_ble_eq_true rfl⟩
theorem EncodedLength.sra_reg (dst : Byte) : EncodedLength.Statement (.sra_reg dst) :=
  ⟨_, _, rfl, rfl, Nat.le_of_ble_eq_true rfl⟩
theorem EncodedLength.sra_ireg (dst : Byte) : EncodedLength.Statement (.sra_ireg dst) :=
  ⟨_, _, rfl, rfl, Nat.le_of_ble_eq_true rfl⟩
theorem EncodedLength.rr_reg (dst : Byte) : EncodedLength.Statement (.rr_reg dst) :=
  ⟨_, _, rfl, rfl, Nat.le_of_ble_eq_true rfl⟩
theorem EncodedLength.rr_ireg (dst : Byte) : EncodedLength.Statement (.rr_ireg dst) :=
  ⟨_, _, rfl, rfl, Nat.le_of_ble_eq_true rfl⟩
theorem EncodedLength.inc_r (dst : WReg) : EncodedLength.Statement (.inc_r dst) :=
  ⟨_, _, rfl, (opLength_operand_columns dst).2.2.2.2.2, Nat.le_of_ble_eq_true rfl⟩
theorem EncodedLength.ld_r_im (dst : WReg) (im : Byte) : EncodedLength.Statement (.ld_r_im dst im) :=
  ⟨_, _, rfl, (opLength_operand_columns dst).2.2.2.1, Nat.le_of_ble_eq_true rfl⟩
theorem EncodedLength.ld_r_reg (dst : WReg) (src : Byte) : EncodedLength.Statement (.ld_r_reg dst src) :=
  ⟨_, _, rfl, (opLength_operand_columns dst).1, Nat.le_of_ble_eq_true rfl⟩
theorem EncodedLength.ld_reg_r (dst : Byte) (src : WReg) : EncodedLength.Statement (.ld_reg_r dst src) :=
  ⟨_, _, rfl, (opLength_operand_columns src).2.1, Nat.le_of_ble_eq_true rfl⟩
theorem EncodedLength.ld_r_ir (dst : WReg) (src : WReg) : EncodedLength.Statement (.ld_r_ir dst src) :=
  ⟨_, _, rfl, rfl, Nat.le_of_ble_eq_true rfl⟩
theorem EncodedLength.ld_ir_r (dst : WReg) (src : WReg) : EncodedLength.Statement (.ld_ir_r dst src) :=
  ⟨_, _, rfl, rfl, Nat.le_of_ble_eq_true rfl⟩
theorem EncodedLength.ld_reg_reg (dst : Byte) (src : Byte) : EncodedLength.Statement (.ld_reg_reg dst src) :=
  ⟨_, _, rfl, rfl, Nat.le_of_ble_eq_true rfl⟩
theorem EncodedLength.ld_reg_ireg (dst : Byte) (src : Byte) :
    EncodedLength.Statement (.ld_reg_ireg dst src) :=
  ⟨_, _, rfl, rfl, Nat.le_of_ble_eq_true rfl⟩
theorem EncodedLength.ld_reg_im (dst : Byte) (im : Byte) : EncodedLength.Statement (.ld_reg_im dst im) :=
  ⟨_, _, rfl, rfl, Nat.le_of_ble_eq_true rfl⟩
theorem EncodedLength.ld_ireg_im (dst : Byte) (im : Byte) : EncodedLength.Statement (.ld_ireg_im dst im) :=
  ⟨_, _, rfl, rfl, Nat.le_of_ble_eq_true rfl⟩
theorem EncodedLength.ld_ireg_reg (dst : Byte) (src : Byte) :
    EncodedLength.Statement (.ld_ireg_reg dst src) :=
  ⟨_, _, rfl, rfl, Nat.le_of_ble_eq_true rfl⟩
theorem EncodedLength.ld_r_x (dst : WReg) (x : Byte) (idx : WReg) :
    EncodedLength.Statement (.ld_r_x dst x idx) :=
  ⟨_, _, rfl, rfl, Nat.le_of_ble_eq_true rfl⟩
theorem EncodedLength.ld_x_r (x : Byte) (idx : WReg) (src : WReg) :
    EncodedLength.Statement (.ld_x_r x idx src) :=
  ⟨_, _, rfl, rfl, Nat.le_of_ble_eq_true rfl⟩
theorem EncodedLength.ldc_r_irr (dst : WReg) (pair : Pair) : EncodedLength.Statement (.ldc_r_irr dst pair) :=
  ⟨_, _, rfl, rfl, Nat.le_of_ble_eq_true rfl⟩
theorem EncodedLength.lde_r_irr (dst : WReg) (pair : Pair) : EncodedLength.Statement (.lde_r_irr dst pair) :=
  ⟨_, _, rfl, rfl, Nat.le_of_ble_eq_true rfl⟩
theorem EncodedLength.ldc_irr_r (pair : Pair) (src : WReg) : EncodedLength.Statement (.ldc_irr_r pair src) :=
  ⟨_, _, rfl, rfl, Nat.le_of_ble_eq_true rfl⟩
theorem EncodedLength.lde_irr_r (pair : Pair) (src : WReg) : EncodedLength.Statement (.lde_irr_r pair src) :=
  ⟨_, _, rfl, rfl, Nat.le_of_ble_eq_true rfl⟩
theorem EncodedLength.ldc_r_xs (dst : WReg) (xs : Byte) (pair : Pair) :
    EncodedLength.Statement (.ldc_r_xs dst xs pair) :=
  ⟨_, _, rfl, rfl, Nat.le_of_ble_eq_true rfl⟩
theorem EncodedLength.lde_r_xs (dst : WReg) (xs : Byte) (pair : Pair) :
    EncodedLength.Statement (.lde_r_xs dst xs pair) :=
  ⟨_, _, rfl, rfl, Nat.le_of_ble_eq_true rfl⟩
theorem EncodedLength.ldc_xs_r (xs : Byte) (pair : Pair) (src : WReg) :
    EncodedLength.Statement (.ldc_xs_r xs pair src) :=
  ⟨_, _, rfl, rfl, Nat.le_of_ble_eq_true rfl⟩
theorem EncodedLength.lde_xs_r (xs : Byte) (pair : Pair) (src : WReg) :
    EncodedLength.Statement (.lde_xs_r xs pair src) :=
  ⟨_, _, rfl, rfl, Nat.le_of_ble_eq_true rfl⟩
theorem EncodedLength.ldc_r_da (dst : WReg) (addr : Addr) : EncodedLength.Statement (.ldc_r_da dst addr) :=
  ⟨_, _, rfl, rfl, Nat.le_of_ble_eq_true rfl⟩
theorem EncodedLength.lde_r_da (dst : WReg) (addr : Addr) : EncodedLength.Statement (.lde_r_da dst addr) :=
  ⟨_, _, rfl, rfl, Nat.le_of_ble_eq_true rfl⟩
theorem EncodedLength.ldc_r_xl (dst : WReg) (xl : Addr) (pair : Pair) :
    EncodedLength.Statement (.ldc_r_xl dst xl pair) :=
  ⟨_, _, rfl, rfl, Nat.le_of_ble_eq_true rfl⟩
theorem EncodedLength.lde_r_xl (dst : WReg) (xl : Addr) (pair : Pair) :
    EncodedLength.Statement (.lde_r_xl dst xl pair) :=
  ⟨_, _, rfl, rfl, Nat.le_of_ble_eq_true rfl⟩
theorem EncodedLength.ldc_da_r (addr : Addr) (src : WReg) : EncodedLength.Statement (.ldc_da_r addr src) :=
  ⟨_, _, rfl, rfl, Nat.le_of_ble_eq_true rfl⟩
theorem EncodedLength.lde_da_r (addr : Addr) (src : WReg) : EncodedLength.Statement (.lde_da_r addr src) :=
  ⟨_, _, rfl, rfl, Nat.le_of_ble_eq_true rfl⟩
theorem EncodedLength.ldc_xl_r (xl : Addr) (pair : Pair) (src : WReg) :
    EncodedLength.Statement (.ldc_xl_r xl pair src) :=
  ⟨_, _, rfl, rfl, Nat.le_of_ble_eq_true rfl⟩
theorem EncodedLength.lde_xl_r (xl : Addr) (pair : Pair) (src : WReg) :
    EncodedLength.Statement (.lde_xl_r xl pair src) :=
  ⟨_, _, rfl, rfl, Nat.le_of_ble_eq_true rfl⟩
theorem EncodedLength.ldcd_r_irr (dst : WReg) (pair : Pair) :
    EncodedLength.Statement (.ldcd_r_irr dst pair) :=
  ⟨_, _, rfl, rfl, Nat.le_of_ble_eq_true rfl⟩
theorem EncodedLength.lded_r_irr (dst : WReg) (pair : Pair) :
    EncodedLength.Statement (.lded_r_irr dst pair) :=
  ⟨_, _, rfl, rfl, Nat.le_of_ble_eq_true rfl⟩
theorem EncodedLength.ldci_r_irr (dst : WReg) (pair : Pair) :
    EncodedLength.Statement (.ldci_r_irr dst pair) :=
  ⟨_, _, rfl, rfl, Nat.le_of_ble_eq_true rfl⟩
theorem EncodedLength.ldei_r_irr (dst : WReg) (pair : Pair) :
    EncodedLength.Statement (.ldei_r_irr dst pair) :=
  ⟨_, _, rfl, rfl, Nat.le_of_ble_eq_true rfl⟩
theorem EncodedLength.call_da (addr : Addr) : EncodedLength.Statement (.call_da addr) :=
  ⟨_, _, rfl, rfl, Nat.le_of_ble_eq_true rfl⟩
theorem EncodedLength.call_ipair (dst : Byte) : EncodedLength.Statement (.call_ipair dst) :=
  ⟨_, _, rfl, rfl, Nat.le_of_ble_eq_true rfl⟩
theorem EncodedLength.iret : EncodedLength.Statement .iret := ⟨_, _, rfl, rfl, Nat.le_of_ble_eq_true rfl⟩
theorem EncodedLength.jp_cc_da (cc : Cond) (addr : Addr) : EncodedLength.Statement (.jp_cc_da cc addr) :=
  ⟨_, _, rfl, (opLength_operand_columns (condBits cc)).2.2.2.2.1, Nat.le_of_ble_eq_true rfl⟩
theorem EncodedLength.jp_ipair (dst : Byte) : EncodedLength.Statement (.jp_ipair dst) :=
  ⟨_, _, rfl, rfl, Nat.le_of_ble_eq_true rfl⟩
theorem EncodedLength.jr_cc_ra (cc : Cond) (ra : Byte) : EncodedLength.Statement (.jr_cc_ra cc ra) :=
  ⟨_, _, rfl, (opLength_operand_columns (condBits cc)).2.2.1, Nat.le_of_ble_eq_true rfl⟩
theorem EncodedLength.ret : EncodedLength.Statement .ret := ⟨_, _, rfl, rfl, Nat.le_of_ble_eq_true rfl⟩
theorem EncodedLength.ccf : EncodedLength.Statement .ccf := ⟨_, _, rfl, rfl, Nat.le_of_ble_eq_true rfl⟩
theorem EncodedLength.di : EncodedLength.Statement .di := ⟨_, _, rfl, rfl, Nat.le_of_ble_eq_true rfl⟩
theorem EncodedLength.ei : EncodedLength.Statement .ei := ⟨_, _, rfl, rfl, Nat.le_of_ble_eq_true rfl⟩
theorem EncodedLength.idle : EncodedLength.Statement .idle := ⟨_, _, rfl, rfl, Nat.le_of_ble_eq_true rfl⟩
theorem EncodedLength.nop : EncodedLength.Statement .nop := ⟨_, _, rfl, rfl, Nat.le_of_ble_eq_true rfl⟩
theorem EncodedLength.rcf : EncodedLength.Statement .rcf := ⟨_, _, rfl, rfl, Nat.le_of_ble_eq_true rfl⟩
theorem EncodedLength.scf : EncodedLength.Statement .scf := ⟨_, _, rfl, rfl, Nat.le_of_ble_eq_true rfl⟩
theorem EncodedLength.stop : EncodedLength.Statement .stop := ⟨_, _, rfl, rfl, Nat.le_of_ble_eq_true rfl⟩

end Sys2Proof.Laws
end

