-- ==== Sys2Proof/Laws/Stops.lean ====
section
/-! SUPPORT. How each shape of instruction can stop: for each shared operation one lemma that names every fault it
can raise, and the case in which it does. Beside the lemmas of Laws/Operands.lean, which say what it does when it
does not stop. -/

namespace Sys2Proof.Machine

open Sys2Proof.Claims

/-- The fault of an access to a location that is not there (10_state R27). -/
def MissingRegister (s : State) (e : Fault) : Prop :=
  ∃ a, e = .unimplementedRegister a ∧ s.classOf a = .absent

/-! ### Operands -/

theorem read_stop {s : State} {k : Nat} {a : Byte} {e : Fault} (h : s.read k a = .error e) :
    MissingRegister s e := ⟨a, (read_error h).2, (read_error h).1⟩

theorem read_absent {s : State} {k : Nat} {a : Byte} (h : s.classOf a = .absent) :
    s.read k a = .error (.unimplementedRegister a) := by simp [State.read, h]

theorem write_stop {s : State} {a v : Byte} {e : Fault} (h : s.write a v = .error e) :
    MissingRegister s e := ⟨a, (write_error h).2, (write_error h).1⟩

/-- A stop in a state with the same parameters is a stop here. -/
theorem MissingRegister.congr {s t : State} {e : Fault} (hc : t.cfg = s.cfg) (h : MissingRegister t e) :
    MissingRegister s e := by
  obtain ⟨a, he, ha⟩ := h
  refine ⟨a, he, ?_⟩
  simpa [State.classOf, hc] using ha

theorem srcThrough_stop {s : State} {a : Byte} {e : Fault} (h : s.srcThrough a = .error e) :
    MissingRegister s e := by
  rcases bind_error_inv h with h | ⟨p, -, h⟩
  · exact read_stop h
  · exact read_stop h

theorem indexed_stop {s : State} {x : Byte} {i : WReg} {e : Fault} (h : s.indexed x i = .error e) :
    MissingRegister s e := by
  rcases bind_error_inv h with h | ⟨p, -, h⟩
  · exact read_stop h
  · cases h

theorem srcIndexed_stop {s : State} {x : Byte} {i : WReg} {e : Fault} (h : s.srcIndexed x i = .error e) :
    MissingRegister s e := by
  rcases bind_error_inv h with h | ⟨p, -, h⟩
  · exact indexed_stop h
  · exact read_stop h

theorem readPair_stop {s : State} {k : Nat} {a : Byte} {e : Fault} (h : s.readPair k a = .error e) :
    MissingRegister s e := by
  rcases bind_error_inv h with h | ⟨p, -, h⟩
  · exact read_stop h
  · rcases bind_error_inv h with h | ⟨q, -, h⟩
    · exact read_stop h
    · cases h

theorem writePair_stop {s : State} {a : Byte} {v : Addr} {e : Fault} (h : s.writePair a v = .error e) :
    MissingRegister s e := by
  rcases bind_error_inv h with h | ⟨p, hp, h⟩
  · exact write_stop h
  · exact (write_stop h).congr (write_frame hp).1

/-! ### The two-operand and one-operand forms -/

theorem binop_stop {f : Byte → Byte → Flags → Byte × Flags} {len : Nat} {dst : Byte} {src : Except Fault Byte}
    {s : State} {e : Fault} (h : binop f len dst src s = .error e) :
    (dst = flagsAddr ∧ e = .unpredictable) ∨ src = .error e ∨ MissingRegister s e := by
  by_cases hd : dst = flagsAddr
  · subst hd
    unfold binop at h
    rw [guardFlags_flags] at h
    cases h
    exact .inl ⟨rfl, rfl⟩
  · unfold binop at h
    rw [guardFlags_ok hd, ok_bind] at h
    rcases bind_error_inv h with h | ⟨v, -, h⟩
    · exact .inr (.inl h)
    · rcases bind_error_inv h with h | ⟨d, -, h⟩
      · exact .inr (.inr (read_stop h))
      · rcases bind_error_inv h with h | ⟨t, -, h⟩
        · exact .inr (.inr (write_stop h))
        · cases h

theorem testop_stop {f : Byte → Byte → Flags → Byte × Flags} {len : Nat} {dst : Byte} {src : Except Fault Byte}
    {s : State} {e : Fault} (h : testop f len dst src s = .error e) : src = .error e ∨ MissingRegister s e := by
  rcases bind_error_inv h with h | ⟨v, -, h⟩
  · exact .inl h
  · rcases bind_error_inv h with h | ⟨d, -, h⟩
    · exact .inr (read_stop h)
    · cases h

theorem unop_stop {f : Byte → Flags → Byte × Flags} {len : Nat} {dst : Byte} {s : State} {e : Fault}
    (h : unop f len dst s = .error e) : (dst = flagsAddr ∧ e = .unpredictable) ∨ MissingRegister s e := by
  by_cases hd : dst = flagsAddr
  · subst hd
    unfold unop at h
    rw [guardFlags_flags] at h
    cases h
    exact .inl ⟨rfl, rfl⟩
  · unfold unop at h
    rw [guardFlags_ok hd, ok_bind] at h
    rcases bind_error_inv h with h | ⟨d, -, h⟩
    · exact .inr (read_stop h)
    · rcases bind_error_inv h with h | ⟨t, -, h⟩
      · exact .inr (write_stop h)
      · cases h

theorem unopThrough_stop {f : Byte → Flags → Byte × Flags} {len : Nat} {a : Byte} {s : State} {e : Fault}
    (h : unopThrough f len a s = .error e) :
    (s.through a = .ok flagsAddr ∧ e = .unpredictable) ∨ MissingRegister s e := by
  rcases bind_error_inv h with h | ⟨d, hd, h⟩
  · exact .inr (read_stop h)
  · rcases unop_stop h with ⟨rfl, he⟩ | h
    · exact .inl ⟨hd, he⟩
    · exact .inr h

/-! ### Loads and stores -/

theorem loadReg_stop {len : Nat} {dst : Byte} {src : Except Fault Byte} {s : State} {e : Fault}
    (h : loadReg len dst src s = .error e) : src = .error e ∨ MissingRegister s e := by
  rcases bind_error_inv h with h | ⟨v, -, h⟩
  · exact .inl h
  · rcases bind_error_inv h with h | ⟨t, -, h⟩
    · exact .inr (write_stop h)
    · cases h

theorem loadAt_stop {len : Nat} {loc src : Except Fault Byte} {s : State} {e : Fault}
    (h : loadAt len loc src s = .error e) : loc = .error e ∨ src = .error e ∨ MissingRegister s e := by
  rcases bind_error_inv h with h | ⟨a, -, h⟩
  · exact .inl h
  · exact .inr (loadReg_stop h)

/-- The address of an Irr operand is always formed: its registers are always there. -/
theorem addrIrr_stop {s : State} {p : Pair} {e : Fault} : s.addrIrr p ≠ .error e := by
  obtain ⟨v, hv⟩ := addrIrr_ok s p
  simp [hv]

theorem pmLoad_stop {s : State} {a : Addr} {e : Fault} (h : s.pmLoad a = .error e) :
    e = .addressOutOfRange a ∧ s.cfg.pmSize.val ≤ a.toNat := by
  unfold State.pmLoad at h
  split at h
  · cases h
  · cases h
    exact ⟨rfl, by omega⟩

theorem dmLoad_stop {s : State} {a : Addr} {e : Fault} (h : s.dmLoad a = .error e) :
    e = .addressOutOfRange a ∧ s.cfg.dmSize.val ≤ a.toNat := by
  unfold State.dmLoad at h
  split at h
  · cases h
  · cases h
    exact ⟨rfl, by omega⟩

theorem pmStore_stop {s : State} {a : Addr} {v : Byte} {e : Fault} (h : s.pmStore a v = .error e) :
    (e = .progMemWriteUnsupported ∧ s.cfg.pmWritable = false) ∨
      (e = .addressOutOfRange a ∧ s.cfg.pmWritable = true ∧ s.cfg.pmSize.val ≤ a.toNat) := by
  unfold State.pmStore at h
  split at h
  next hw => cases h; exact .inl ⟨rfl, hw⟩
  next hw =>
    split at h
    · cases h
    · cases h
      exact .inr ⟨rfl, by simpa using hw, by omega⟩

theorem dmStore_stop {s : State} {a : Addr} {v : Byte} {e : Fault} (h : s.dmStore a v = .error e) :
    e = .addressOutOfRange a ∧ s.cfg.dmSize.val ≤ a.toNat := by
  unfold State.dmStore at h
  split at h
  · cases h
  · cases h
    exact ⟨rfl, by omega⟩

theorem loadProgram_stop {len : Nat} {dst : WReg} {addr : Except Fault Addr} {s : State} {e : Fault}
    (h : loadProgram len dst addr s = .error e) :
    addr = .error e ∨ MissingRegister s e ∨
      ∃ a, addr = .ok a ∧ e = .addressOutOfRange a ∧ s.cfg.pmSize.val ≤ a.toNat := by
  rcases bind_error_inv h with h | ⟨a, ha, h⟩
  · exact .inl h
  · rcases loadReg_stop h with h | h
    · exact .inr (.inr ⟨a, ha, pmLoad_stop h⟩)
    · exact .inr (.inl h)

theorem loadData_stop {len : Nat} {dst : WReg} {addr : Except Fault Addr} {s : State} {e : Fault}
    (h : loadData len dst addr s = .error e) :
    addr = .error e ∨ MissingRegister s e ∨
      ∃ a, addr = .ok a ∧ e = .addressOutOfRange a ∧ s.cfg.dmSize.val ≤ a.toNat := by
  rcases bind_error_inv h with h | ⟨a, ha, h⟩
  · exact .inl h
  · rcases loadReg_stop h with h | h
    · exact .inr (.inr ⟨a, ha, dmLoad_stop h⟩)
    · exact .inr (.inl h)

theorem storeProgram_stop {len : Nat} {addr : Except Fault Addr} {src : WReg} {s : State} {e : Fault}
    (h : storeProgram len addr src s = .error e) :
    addr = .error e ∨ MissingRegister s e ∨ (e = .progMemWriteUnsupported ∧ s.cfg.pmWritable = false) ∨
      ∃ a, addr = .ok a ∧ e = .addressOutOfRange a ∧ s.cfg.pmWritable = true ∧ s.cfg.pmSize.val ≤ a.toNat := by
  rcases bind_error_inv h with h | ⟨a, ha, h⟩
  · exact .inl h
  · rcases bind_error_inv h with h | ⟨v, -, h⟩
    · exact .inr (.inl (read_stop h))
    · rcases bind_error_inv h with h | ⟨t, -, h⟩
      · rcases pmStore_stop h with h | h
        · exact .inr (.inr (.inl h))
        · exact .inr (.inr (.inr ⟨a, ha, h⟩))
      · cases h

theorem storeData_stop {len : Nat} {addr : Except Fault Addr} {src : WReg} {s : State} {e : Fault}
    (h : storeData len addr src s = .error e) :
    addr = .error e ∨ MissingRegister s e ∨
      ∃ a, addr = .ok a ∧ e = .addressOutOfRange a ∧ s.cfg.dmSize.val ≤ a.toNat := by
  rcases bind_error_inv h with h | ⟨a, ha, h⟩
  · exact .inl h
  · rcases bind_error_inv h with h | ⟨v, -, h⟩
    · exact .inr (.inl (read_stop h))
    · rcases bind_error_inv h with h | ⟨t, -, h⟩
      · exact .inr (.inr ⟨a, ha, dmStore_stop h⟩)
      · cases h

theorem loadStep_stop {load : State → Addr → Except Fault Byte} {delta : Addr} {dst : WReg} {p : Pair} {s : State}
    {e : Fault} (h : loadStep load delta dst p s = .error e) :
    ((s.wr dst = s.pairAddr p ∨ s.wr dst = s.pairAddr p + 1#8) ∧ e = .unpredictable) ∨ MissingRegister s e ∨
      ∃ a, s.addrIrr p = .ok a ∧ load s a = .error e := by
  unfold loadStep at h
  split at h
  next hp => cases h; exact .inl ⟨hp, rfl⟩
  next =>
    rcases bind_error_inv h with h | ⟨a, ha, h⟩
    · exact absurd h addrIrr_stop
    · rcases bind_error_inv h with h | ⟨v, -, h⟩
      · exact .inr (.inr ⟨a, ha, h⟩)
      · rcases bind_error_inv h with h | ⟨t, ht, h⟩
        · exact .inr (.inl (write_stop h))
        · rcases bind_error_inv h with h | ⟨u, -, h⟩
          · exact .inr (.inl ((writePair_stop h).congr (write_frame ht).1))
          · cases h

/-! ### The stack and transfers of control -/

theorem popTo_stop {dst : Byte} {s : State} {e : Fault} (h : popTo dst s = .error e) :
    (dst = spAddr ∧ e = .unpredictable) ∨ MissingRegister s e := by
  unfold popTo at h
  split at h
  next hd => cases h; exact .inl ⟨hd, rfl⟩
  next =>
    rcases bind_error_inv h with h | ⟨v, -, h⟩
    · exact .inr (read_stop h)
    · rcases bind_error_inv h with h | ⟨t, -, h⟩
      · exact .inr (write_stop h)
      · cases h

theorem push_stop {s : State} {v : Byte} {e : Fault} (h : s.push v = .error e) : MissingRegister s e :=
  ⟨_, (push_error h).2, (push_error h).1⟩

theorem push_absent {s : State} (v : Byte) (h : s.classOf (s.sp - 1#8) = .absent) :
    s.push v = .error (.unimplementedRegister (s.sp - 1#8)) := by
  cases hp : s.push v with
  | ok t => exact absurd h (push_inv hp).1
  | error e => rw [(push_error hp).2]

theorem pushFrom_stop {src : Byte} {s : State} {e : Fault} (h : pushFrom src s = .error e) :
    (src = spAddr ∧ e = .unpredictable) ∨ MissingRegister s e := by
  unfold pushFrom at h
  split at h
  next hd => cases h; exact .inl ⟨hd, rfl⟩
  next =>
    rcases bind_error_inv h with h | ⟨v, -, h⟩
    · exact .inr (read_stop h)
    · rcases bind_error_inv h with h | ⟨t, -, h⟩
      · exact .inr (push_stop h)
      · cases h

/-- A pop at a location that is not there stops. -/
theorem pop_absent {s : State} (k : Nat) (h : s.classOf s.sp = .absent) :
    s.pop k = .error (.unimplementedRegister s.sp) := by
  unfold State.pop
  rw [read_absent h, error_bind]

theorem pop_stop {s : State} {k : Nat} {e : Fault} (h : s.pop k = .error e) : MissingRegister s e := by
  rcases bind_error_inv h with h | ⟨v, -, h⟩
  · exact read_stop h
  · cases h

/-- One more push after register writes, at a location that is not there. -/
theorem push_after_absent {s t : State} {ws : List (Byte × Byte)} {p : Addr} (v : Byte) (e : Effect s t ws p)
    (ha : s.classOf (after s ws spAddr - 1#8) = .absent) :
    t.push v = .error (.unimplementedRegister (after s ws spAddr - 1#8)) := by
  rw [← sp_of_effect e] at ha ⊢
  exact push_absent v (by simpa [State.classOf, e.control.cfg] using ha)

theorem callTo_stop {len : Nat} {target : Addr} {s : State} {e : Fault} (h : callTo len target s = .error e) :
    MissingRegister s e := by
  rcases bind_error_inv h with h | ⟨t, ht, h⟩
  · exact push_stop h
  · rcases bind_error_inv h with h | ⟨u, -, h⟩
    · exact (push_stop h).congr (push_inv ht).2.control.cfg
    · cases h

theorem pairMeetsStack_inv {s : State} {a : Byte} (h : s.pairMeetsStack a = true) :
    ∃ b, (b = a ∨ b = a + 1#8) ∧ (b = spAddr ∨ b = s.sp - 1#8 ∨ b = s.sp - 2#8) := by
  simp only [State.pairMeetsStack, List.any_eq_true, List.contains_iff_mem] at h
  obtain ⟨b, hb, hm⟩ := h
  exact ⟨b, by simpa using hb, by simpa using hm⟩

theorem callThrough_stop {a : Byte} {s : State} {e : Fault} (h : callThrough a s = .error e) :
    (a.getLsbD 0 = true ∧ e = .oddRegisterPair a) ∨
      (a.getLsbD 0 = false ∧ s.pairMeetsStack a = true ∧ e = .unpredictable) ∨ MissingRegister s e := by
  unfold callThrough at h
  split at h
  next ho => cases h; exact .inl ⟨ho, rfl⟩
  next ho =>
    split at h
    next hm => cases h; exact .inr (.inl ⟨by simpa using ho, hm, rfl⟩)
    next =>
      rcases bind_error_inv h with h | ⟨t, -, h⟩
      · exact .inr (.inr (readPair_stop h))
      · exact .inr (.inr (callTo_stop h))

theorem jumpThrough_stop {a : Byte} {s : State} {e : Fault} (h : jumpTo (s.addrIpair a) s = .error e) :
    (a.getLsbD 0 = true ∧ e = .oddRegisterPair a) ∨ MissingRegister s e := by
  rcases bind_error_inv h with h | ⟨t, -, h⟩
  · unfold State.addrIpair at h
    split at h
    next ho => cases h; exact .inl ⟨ho, rfl⟩
    next => exact .inr (readPair_stop h)
  · cases h

theorem returnFromCall_stop {s : State} {e : Fault} (h : returnFromCall s = .error e) : MissingRegister s e := by
  rcases bind_error_inv h with h | ⟨p, hp, h⟩
  · exact pop_stop h
  · rcases bind_error_inv h with h | ⟨q, -, h⟩
    · exact (pop_stop h).congr (by rw [(pop_inv hp).2]; rfl)
    · cases h

theorem returnFromInterrupt_stop {s : State} {e : Fault} (h : returnFromInterrupt s = .error e) :
    MissingRegister s e := by
  rcases bind_error_inv h with h | ⟨p, hp, h⟩
  · exact pop_stop h
  · have hc : p.2.cfg = s.cfg := by rw [(pop_inv hp).2]; rfl
    rcases bind_error_inv h with h | ⟨t, ht, h⟩
    · exact (write_stop h).congr hc
    · have hc := (write_frame ht).1.trans hc
      rcases bind_error_inv h with h | ⟨q, hq, h⟩
      · exact (pop_stop h).congr hc
      · have hc : q.2.cfg = s.cfg := by rw [(pop_inv hq).2]; exact hc
        rcases bind_error_inv h with h | ⟨r, -, h⟩
        · exact (pop_stop h).congr hc
        · cases h

end Sys2Proof.Machine
end

