-- ==== Sys2Proof/Machine/Asm.lean ====
section
/-! DEFINITION. The source's assembler spelling of an instruction (30_encoding R73, R74). The machine does not
use it; it is for reading programs. -/

namespace Sys2Proof.Machine

/-- A hexadecimal digit. -/
def hexDigit (n : BitVec 4) : Char :=
  if n.toNat < 10 then Char.ofNat (48 + n.toNat) else Char.ofNat (55 + n.toNat)

/-- A number in hexadecimal, suffix H, with a leading 0 before a letter digit (R73). -/
def hexNumber (digits : List (BitVec 4)) : String :=
  String.ofList ((if (digits.headD 0#4).toNat < 10 then [] else ['0']) ++ digits.map hexDigit ++ ['H'])

/-- A byte: `nnH`. -/
def byteHex (b : Byte) : String := hexNumber [hiNib b, loNib b]

/-- A 16-bit number: `nnnnH`. The four digits keep a long offset apart from a short one (R73: XS or XL by the size
of the number). -/
def addrHex (a : Addr) : String :=
  hexNumber [hiNib (hiByte a), loNib (hiByte a), hiNib (loByte a), loNib (loByte a)]

/-- `Rn` (R73). -/
def workReg (n : WReg) : String := "R" ++ toString n.toNat

/-- `RRp` (R73): the even number of the pair. -/
def workPair (p : Pair) : String := "RR" ++ toString (2 * p.toNat)

/-- `@x`: through a register (R73). -/
def asmAt (x : String) : String := "@" ++ x

/-- `#x`: immediate (R73). -/
def asmHash (x : String) : String := "#" ++ x

/-- `#x[r]`: indexed (R73). -/
def asmIndexed (x r : String) : String := "#" ++ x ++ "[" ++ r ++ "]"

/-- One operand. -/
def asmOne (m x : String) : String := m ++ " " ++ x

/-- Two operands, the destination first, or the condition first (R73). -/
def asmTwo (m x y : String) : String := m ++ " " ++ x ++ "," ++ y

/-- The condition's mnemonic. EQ, NE, ULT and UGE are other names of Z, NZ, C and NC (R74). -/
def condName : Cond → String
  | .f => "F"
  | .lt => "LT"
  | .le => "LE"
  | .ule => "ULE"
  | .ov => "OV"
  | .mi => "MI"
  | .z => "Z"
  | .c => "C"
  | .t => "T"
  | .ge => "GE"
  | .gt => "GT"
  | .ugt => "UGT"
  | .nov => "NOV"
  | .pl => "PL"
  | .nz => "NZ"
  | .nc => "NC"

/-- The spelling of an instruction at address `here`, which only JR's target needs (R73). -/
def asm (here : Addr) : Instr → String
  | .add_r_r d s => asmTwo "ADD" (workReg d) (workReg s)
  | .add_r_ir d s => asmTwo "ADD" (workReg d) (asmAt (workReg s))
  | .add_reg_reg d s => asmTwo "ADD" (byteHex d) (byteHex s)
  | .add_reg_ireg d s => asmTwo "ADD" (byteHex d) (asmAt (byteHex s))
  | .add_reg_im d n => asmTwo "ADD" (byteHex d) (asmHash (byteHex n))
  | .adc_r_r d s => asmTwo "ADC" (workReg d) (workReg s)
  | .adc_r_ir d s => asmTwo "ADC" (workReg d) (asmAt (workReg s))
  | .adc_reg_reg d s => asmTwo "ADC" (byteHex d) (byteHex s)
  | .adc_reg_ireg d s => asmTwo "ADC" (byteHex d) (asmAt (byteHex s))
  | .adc_reg_im d n => asmTwo "ADC" (byteHex d) (asmHash (byteHex n))
  | .sub_r_r d s => asmTwo "SUB" (workReg d) (workReg s)
  | .sub_r_ir d s => asmTwo "SUB" (workReg d) (asmAt (workReg s))
  | .sub_reg_reg d s => asmTwo "SUB" (byteHex d) (byteHex s)
  | .sub_reg_ireg d s => asmTwo "SUB" (byteHex d) (asmAt (byteHex s))
  | .sub_reg_im d n => asmTwo "SUB" (byteHex d) (asmHash (byteHex n))
  | .sbc_r_r d s => asmTwo "SBC" (workReg d) (workReg s)
  | .sbc_r_ir d s => asmTwo "SBC" (workReg d) (asmAt (workReg s))
  | .sbc_reg_reg d s => asmTwo "SBC" (byteHex d) (byteHex s)
  | .sbc_reg_ireg d s => asmTwo "SBC" (byteHex d) (asmAt (byteHex s))
  | .sbc_reg_im d n => asmTwo "SBC" (byteHex d) (asmHash (byteHex n))
  | .or_r_r d s => asmTwo "OR" (workReg d) (workReg s)
  | .or_r_ir d s => asmTwo "OR" (workReg d) (asmAt (workReg s))
  | .or_reg_reg d s => asmTwo "OR" (byteHex d) (byteHex s)
  | .or_reg_ireg d s => asmTwo "OR" (byteHex d) (asmAt (byteHex s))
  | .or_reg_im d n => asmTwo "OR" (byteHex d) (asmHash (byteHex n))
  | .and_r_r d s => asmTwo "AND" (workReg d) (workReg s)
  | .and_r_ir d s => asmTwo "AND" (workReg d) (asmAt (workReg s))
  | .and_reg_reg d s => asmTwo "AND" (byteHex d) (byteHex s)
  | .and_reg_ireg d s => asmTwo "AND" (byteHex d) (asmAt (byteHex s))
  | .and_reg_im d n => asmTwo "AND" (byteHex d) (asmHash (byteHex n))
  | .tcm_r_r d s => asmTwo "TCM" (workReg d) (workReg s)
  | .tcm_r_ir d s => asmTwo "TCM" (workReg d) (asmAt (workReg s))
  | .tcm_reg_reg d s => asmTwo "TCM" (byteHex d) (byteHex s)
  | .tcm_reg_ireg d s => asmTwo "TCM" (byteHex d) (asmAt (byteHex s))
  | .tcm_reg_im d n => asmTwo "TCM" (byteHex d) (asmHash (byteHex n))
  | .tm_r_r d s => asmTwo "TM" (workReg d) (workReg s)
  | .tm_r_ir d s => asmTwo "TM" (workReg d) (asmAt (workReg s))
  | .tm_reg_reg d s => asmTwo "TM" (byteHex d) (byteHex s)
  | .tm_reg_ireg d s => asmTwo "TM" (byteHex d) (asmAt (byteHex s))
  | .tm_reg_im d n => asmTwo "TM" (byteHex d) (asmHash (byteHex n))
  | .cp_r_r d s => asmTwo "CP" (workReg d) (workReg s)
  | .cp_r_ir d s => asmTwo "CP" (workReg d) (asmAt (workReg s))
  | .cp_reg_reg d s => asmTwo "CP" (byteHex d) (byteHex s)
  | .cp_reg_ireg d s => asmTwo "CP" (byteHex d) (asmAt (byteHex s))
  | .cp_reg_im d n => asmTwo "CP" (byteHex d) (asmHash (byteHex n))
  | .xor_r_r d s => asmTwo "XOR" (workReg d) (workReg s)
  | .xor_r_ir d s => asmTwo "XOR" (workReg d) (asmAt (workReg s))
  | .xor_reg_reg d s => asmTwo "XOR" (byteHex d) (byteHex s)
  | .xor_reg_ireg d s => asmTwo "XOR" (byteHex d) (asmAt (byteHex s))
  | .xor_reg_im d n => asmTwo "XOR" (byteHex d) (asmHash (byteHex n))
  | .dec_reg a => asmOne "DEC" (byteHex a)
  | .dec_ireg a => asmOne "DEC" (asmAt (byteHex a))
  | .rlc_reg a => asmOne "RLC" (byteHex a)
  | .rlc_ireg a => asmOne "RLC" (asmAt (byteHex a))
  | .inc_reg a => asmOne "INC" (byteHex a)
  | .inc_ireg a => asmOne "INC" (asmAt (byteHex a))
  | .pop_reg a => asmOne "POP" (byteHex a)
  | .pop_ireg a => asmOne "POP" (asmAt (byteHex a))
  | .com_reg a => asmOne "COM" (byteHex a)
  | .com_ireg a => asmOne "COM" (asmAt (byteHex a))
  | .push_reg a => asmOne "PUSH" (byteHex a)
  | .push_ireg a => asmOne "PUSH" (asmAt (byteHex a))
  | .rl_reg a => asmOne "RL" (byteHex a)
  | .rl_ireg a => asmOne "RL" (asmAt (byteHex a))
  | .clr_reg a => asmOne "CLR" (byteHex a)
  | .clr_ireg a => asmOne "CLR" (asmAt (byteHex a))
  | .rrc_reg a => asmOne "RRC" (byteHex a)
  | .rrc_ireg a => asmOne "RRC" (asmAt (byteHex a))
  | .sra_reg a => asmOne "SRA" (byteHex a)
  | .sra_ireg a => asmOne "SRA" (asmAt (byteHex a))
  | .rr_reg a => asmOne "RR" (byteHex a)
  | .rr_ireg a => asmOne "RR" (asmAt (byteHex a))
  | .inc_r d => asmOne "INC" (workReg d)
  | .ld_r_im d n => asmTwo "LD" (workReg d) (asmHash (byteHex n))
  | .ld_r_reg d a => asmTwo "LD" (workReg d) (byteHex a)
  | .ld_reg_r a r => asmTwo "LD" (byteHex a) (workReg r)
  | .ld_r_ir d r => asmTwo "LD" (workReg d) (asmAt (workReg r))
  | .ld_ir_r d r => asmTwo "LD" (asmAt (workReg d)) (workReg r)
  | .ld_reg_reg d a => asmTwo "LD" (byteHex d) (byteHex a)
  | .ld_reg_ireg d a => asmTwo "LD" (byteHex d) (asmAt (byteHex a))
  | .ld_reg_im d n => asmTwo "LD" (byteHex d) (asmHash (byteHex n))
  | .ld_ireg_im d n => asmTwo "LD" (asmAt (byteHex d)) (asmHash (byteHex n))
  | .ld_ireg_reg d a => asmTwo "LD" (asmAt (byteHex d)) (byteHex a)
  | .ld_r_x d x i => asmTwo "LD" (workReg d) (asmIndexed (byteHex x) (workReg i))
  | .ld_x_r x i r => asmTwo "LD" (asmIndexed (byteHex x) (workReg i)) (workReg r)
  | .ldc_r_irr d p => asmTwo "LDC" (workReg d) (asmAt (workPair p))
  | .ldc_irr_r p r => asmTwo "LDC" (asmAt (workPair p)) (workReg r)
  | .lde_r_irr d p => asmTwo "LDE" (workReg d) (asmAt (workPair p))
  | .lde_irr_r p r => asmTwo "LDE" (asmAt (workPair p)) (workReg r)
  | .ldc_r_xs d o p => asmTwo "LDC" (workReg d) (asmIndexed (byteHex o) (workPair p))
  | .ldc_xs_r o p r => asmTwo "LDC" (asmIndexed (byteHex o) (workPair p)) (workReg r)
  | .lde_r_xs d o p => asmTwo "LDE" (workReg d) (asmIndexed (byteHex o) (workPair p))
  | .lde_xs_r o p r => asmTwo "LDE" (asmIndexed (byteHex o) (workPair p)) (workReg r)
  | .ldc_r_da d a => asmTwo "LDC" (workReg d) (addrHex a)
  | .ldc_da_r a r => asmTwo "LDC" (addrHex a) (workReg r)
  | .lde_r_da d a => asmTwo "LDE" (workReg d) (addrHex a)
  | .lde_da_r a r => asmTwo "LDE" (addrHex a) (workReg r)
  | .ldc_r_xl d o p => asmTwo "LDC" (workReg d) (asmIndexed (addrHex o) (workPair p))
  | .ldc_xl_r o p r => asmTwo "LDC" (asmIndexed (addrHex o) (workPair p)) (workReg r)
  | .lde_r_xl d o p => asmTwo "LDE" (workReg d) (asmIndexed (addrHex o) (workPair p))
  | .lde_xl_r o p r => asmTwo "LDE" (asmIndexed (addrHex o) (workPair p)) (workReg r)
  | .ldcd_r_irr d p => asmTwo "LDCD" (workReg d) (asmAt (workPair p))
  | .lded_r_irr d p => asmTwo "LDED" (workReg d) (asmAt (workPair p))
  | .ldci_r_irr d p => asmTwo "LDCI" (workReg d) (asmAt (workPair p))
  | .ldei_r_irr d p => asmTwo "LDEI" (workReg d) (asmAt (workPair p))
  | .call_da a => asmOne "CALL" (addrHex a)
  | .call_ipair a => asmOne "CALL" (asmAt (byteHex a))
  | .jp_cc_da cc a => asmTwo "JP" (condName cc) (addrHex a)
  | .jp_ipair a => asmOne "JP" (asmAt (byteHex a))
  | .jr_cc_ra cc ra => asmTwo "JR" (condName cc) (addrHex (here + 2#16 + ra.signExtend 16))
  | .iret => "IRET"
  | .ret => "RET"
  | .ccf => "CCF"
  | .di => "DI"
  | .ei => "EI"
  | .idle => "IDLE"
  | .nop => "NOP"
  | .rcf => "RCF"
  | .scf => "SCF"
  | .stop => "STOP"

end Sys2Proof.Machine
end

