-- ==== Sys2Proof/Machine/Timing.lean ====
section
/-! DEFINITION. The cycle counts of the source's Format tables, for reference only (70_reset_and_hazards R216,
R217): nothing else of the model uses them, since the spec has no clock (decision D24, log 24). -/

namespace Sys2Proof.Machine

/-- One row of R217: the number of cycles, and whether the source itself states it. A number it does not state
(marked † in R217) must not be relied on. -/
structure Cycles where
  count : Nat
  stated : Bool
  deriving DecidableEq, Repr

/-- The cycles of each form (R217), one number whether or not a jump is taken (R216). The length in bytes is
`Instr.length`. -/
def cycles : Instr → Cycles
  | .add_r_r _ _ | .sbc_r_r _ _ | .or_r_r _ _ | .and_r_r _ _ | .tcm_r_r _ _ | .xor_r_r _ _ | .dec_reg _
  | .dec_ireg _ | .rlc_reg _ | .com_reg _ | .rl_reg _ | .clr_reg _ | .sra_reg _ | .rr_reg _ | .ccf
  | .di | .ei | .idle | .scf => ⟨4, true⟩
  | .adc_r_r _ _ | .sub_r_r _ _ | .tm_r_r _ _ | .cp_r_r _ _ | .rlc_ireg _ | .inc_reg _ | .inc_ireg _
  | .com_ireg _ | .rl_ireg _ | .clr_ireg _ | .rrc_reg _ | .rrc_ireg _ | .sra_ireg _ | .rr_ireg _
  | .inc_r _ | .ld_r_im _ _ | .ld_r_reg _ _ | .ld_reg_r _ _ | .ld_r_ir _ _ | .ld_ir_r _ _ | .nop | .rcf
  | .stop => ⟨4, false⟩
  | .add_r_ir _ _ | .add_reg_reg _ _ | .add_reg_ireg _ _ | .add_reg_im _ _ | .sbc_r_ir _ _
  | .sbc_reg_reg _ _ | .sbc_reg_ireg _ _ | .sbc_reg_im _ _ | .or_r_ir _ _ | .or_reg_reg _ _
  | .or_reg_ireg _ _ | .or_reg_im _ _ | .and_r_ir _ _ | .and_reg_reg _ _ | .and_reg_ireg _ _
  | .and_reg_im _ _ | .tcm_r_ir _ _ | .tcm_reg_reg _ _ | .tcm_reg_ireg _ _ | .tcm_reg_im _ _
  | .xor_r_ir _ _ | .xor_reg_reg _ _ | .xor_reg_ireg _ _ | .xor_reg_im _ _ | .jr_cc_ra _ _ => ⟨6, true⟩
  | .adc_r_ir _ _ | .adc_reg_reg _ _ | .adc_reg_ireg _ _ | .adc_reg_im _ _ | .sub_r_ir _ _
  | .sub_reg_reg _ _ | .sub_reg_ireg _ _ | .sub_reg_im _ _ | .tm_r_ir _ _ | .tm_reg_reg _ _
  | .tm_reg_ireg _ _ | .tm_reg_im _ _ | .cp_r_ir _ _ | .cp_reg_reg _ _ | .cp_reg_ireg _ _
  | .cp_reg_im _ _ | .ld_reg_reg _ _ | .ld_reg_ireg _ _ | .ld_reg_im _ _ | .ld_ireg_im _ _
  | .ld_ireg_reg _ _ | .ld_r_x _ _ _ | .ld_x_r _ _ _ => ⟨6, false⟩
  | .pop_reg _ | .push_reg _ | .jp_cc_da _ _ | .jp_ipair _ | .ret => ⟨8, true⟩
  | .pop_ireg _ | .push_ireg _ => ⟨8, false⟩
  | .ldc_r_irr _ _ | .lde_r_irr _ _ | .ldc_irr_r _ _ | .lde_irr_r _ _ | .ldci_r_irr _ _
  | .ldei_r_irr _ _ | .iret => ⟨10, true⟩
  | .ldcd_r_irr _ _ | .lded_r_irr _ _ => ⟨10, false⟩
  | .ldc_r_xs _ _ _ | .lde_r_xs _ _ _ | .ldc_xs_r _ _ _ | .lde_xs_r _ _ _ | .call_ipair _ => ⟨12, true⟩
  | .ldc_r_xl _ _ _ | .lde_r_xl _ _ _ | .call_da _ => ⟨14, true⟩
  | .ldc_r_da _ _ | .lde_r_da _ _ | .ldc_da_r _ _ | .lde_da_r _ _ | .ldc_xl_r _ _ _ | .lde_xl_r _ _ _
    => ⟨14, false⟩

end Sys2Proof.Machine
end

