-- ==== Sys2Proof/Tests/Slice0.lean ====
section
/-! SUPPORT. Tests with results from outside the model: decoding of words written out from the spec's
encodings, the ill-formed instructions, one step of the source's examples and of the spec's corner vectors
(95_test_vectors, ids S- and V-), and a witness for the hypotheses of each obligation. -/

namespace Sys2Proof.Tests

open Sys2Proof Sys2Proof.Machine Sys2Proof.Claims

/-! ### Decoding: words written out from the bits of the spec's encodings (30_encoding R61, R70; the
"encoding" of each row of spec/opcode_table.json, its fields filled with a pattern) -/

/-- The instruction that a list of bytes is, with nothing left over. -/
def only (bytes : List Byte) : Option Instr :=
  match decode bytes with
  | .instr i [] => some i
  | _ => none

theorem test_decode_add :
    [only [0b00000010#8, 0b10100110#8],
     only [0b00000011#8, 0b10100110#8],
     only [0b00000100#8, 0b10110001#8, 0b01001110#8],
     only [0b00000101#8, 0b10110001#8, 0b01001110#8],
     only [0b00000110#8, 0b01001110#8, 0b01111100#8]]
    = [some (.add_r_r 0xA#4 0x6#4),
       some (.add_r_ir 0xA#4 0x6#4),
       some (.add_reg_reg 0x4E#8 0xB1#8),
       some (.add_reg_ireg 0x4E#8 0xB1#8),
       some (.add_reg_im 0x4E#8 0x7C#8)] := by decide

theorem test_decode_adc :
    [only [0b00010010#8, 0b10100110#8],
     only [0b00010011#8, 0b10100110#8],
     only [0b00010100#8, 0b10110001#8, 0b01001110#8],
     only [0b00010101#8, 0b10110001#8, 0b01001110#8],
     only [0b00010110#8, 0b01001110#8, 0b01111100#8]]
    = [some (.adc_r_r 0xA#4 0x6#4),
       some (.adc_r_ir 0xA#4 0x6#4),
       some (.adc_reg_reg 0x4E#8 0xB1#8),
       some (.adc_reg_ireg 0x4E#8 0xB1#8),
       some (.adc_reg_im 0x4E#8 0x7C#8)] := by decide

theorem test_decode_sub :
    [only [0b00100010#8, 0b10100110#8],
     only [0b00100011#8, 0b10100110#8],
     only [0b00100100#8, 0b10110001#8, 0b01001110#8],
     only [0b00100101#8, 0b10110001#8, 0b01001110#8],
     only [0b00100110#8, 0b01001110#8, 0b01111100#8]]
    = [some (.sub_r_r 0xA#4 0x6#4),
       some (.sub_r_ir 0xA#4 0x6#4),
       some (.sub_reg_reg 0x4E#8 0xB1#8),
       some (.sub_reg_ireg 0x4E#8 0xB1#8),
       some (.sub_reg_im 0x4E#8 0x7C#8)] := by decide

theorem test_decode_sbc :
    [only [0b00110010#8, 0b10100110#8],
     only [0b00110011#8, 0b10100110#8],
     only [0b00110100#8, 0b10110001#8, 0b01001110#8],
     only [0b00110101#8, 0b10110001#8, 0b01001110#8],
     only [0b00110110#8, 0b01001110#8, 0b01111100#8]]
    = [some (.sbc_r_r 0xA#4 0x6#4),
       some (.sbc_r_ir 0xA#4 0x6#4),
       some (.sbc_reg_reg 0x4E#8 0xB1#8),
       some (.sbc_reg_ireg 0x4E#8 0xB1#8),
       some (.sbc_reg_im 0x4E#8 0x7C#8)] := by decide

theorem test_decode_or :
    [only [0b01000010#8, 0b10100110#8],
     only [0b01000011#8, 0b10100110#8],
     only [0b01000100#8, 0b10110001#8, 0b01001110#8],
     only [0b01000101#8, 0b10110001#8, 0b01001110#8],
     only [0b01000110#8, 0b01001110#8, 0b01111100#8]]
    = [some (.or_r_r 0xA#4 0x6#4),
       some (.or_r_ir 0xA#4 0x6#4),
       some (.or_reg_reg 0x4E#8 0xB1#8),
       some (.or_reg_ireg 0x4E#8 0xB1#8),
       some (.or_reg_im 0x4E#8 0x7C#8)] := by decide

theorem test_decode_and :
    [only [0b01010010#8, 0b10100110#8],
     only [0b01010011#8, 0b10100110#8],
     only [0b01010100#8, 0b10110001#8, 0b01001110#8],
     only [0b01010101#8, 0b10110001#8, 0b01001110#8],
     only [0b01010110#8, 0b01001110#8, 0b01111100#8]]
    = [some (.and_r_r 0xA#4 0x6#4),
       some (.and_r_ir 0xA#4 0x6#4),
       some (.and_reg_reg 0x4E#8 0xB1#8),
       some (.and_reg_ireg 0x4E#8 0xB1#8),
       some (.and_reg_im 0x4E#8 0x7C#8)] := by decide

theorem test_decode_tcm :
    [only [0b01100010#8, 0b10100110#8],
     only [0b01100011#8, 0b10100110#8],
     only [0b01100100#8, 0b10110001#8, 0b01001110#8],
     only [0b01100101#8, 0b10110001#8, 0b01001110#8],
     only [0b01100110#8, 0b01001110#8, 0b01111100#8]]
    = [some (.tcm_r_r 0xA#4 0x6#4),
       some (.tcm_r_ir 0xA#4 0x6#4),
       some (.tcm_reg_reg 0x4E#8 0xB1#8),
       some (.tcm_reg_ireg 0x4E#8 0xB1#8),
       some (.tcm_reg_im 0x4E#8 0x7C#8)] := by decide

theorem test_decode_tm :
    [only [0b01110010#8, 0b10100110#8],
     only [0b01110011#8, 0b10100110#8],
     only [0b01110100#8, 0b10110001#8, 0b01001110#8],
     only [0b01110101#8, 0b10110001#8, 0b01001110#8],
     only [0b01110110#8, 0b01001110#8, 0b01111100#8]]
    = [some (.tm_r_r 0xA#4 0x6#4),
       some (.tm_r_ir 0xA#4 0x6#4),
       some (.tm_reg_reg 0x4E#8 0xB1#8),
       some (.tm_reg_ireg 0x4E#8 0xB1#8),
       some (.tm_reg_im 0x4E#8 0x7C#8)] := by decide

theorem test_decode_cp :
    [only [0b10100010#8, 0b10100110#8],
     only [0b10100011#8, 0b10100110#8],
     only [0b10100100#8, 0b10110001#8, 0b01001110#8],
     only [0b10100101#8, 0b10110001#8, 0b01001110#8],
     only [0b10100110#8, 0b01001110#8, 0b01111100#8]]
    = [some (.cp_r_r 0xA#4 0x6#4),
       some (.cp_r_ir 0xA#4 0x6#4),
       some (.cp_reg_reg 0x4E#8 0xB1#8),
       some (.cp_reg_ireg 0x4E#8 0xB1#8),
       some (.cp_reg_im 0x4E#8 0x7C#8)] := by decide

theorem test_decode_xor :
    [only [0b10110010#8, 0b10100110#8],
     only [0b10110011#8, 0b10100110#8],
     only [0b10110100#8, 0b10110001#8, 0b01001110#8],
     only [0b10110101#8, 0b10110001#8, 0b01001110#8],
     only [0b10110110#8, 0b01001110#8, 0b01111100#8]]
    = [some (.xor_r_r 0xA#4 0x6#4),
       some (.xor_r_ir 0xA#4 0x6#4),
       some (.xor_reg_reg 0x4E#8 0xB1#8),
       some (.xor_reg_ireg 0x4E#8 0xB1#8),
       some (.xor_reg_im 0x4E#8 0x7C#8)] := by decide

theorem test_decode_one_operand_1 :
    [only [0b00000000#8, 0b01001110#8],
     only [0b00000001#8, 0b01001110#8],
     only [0b00100000#8, 0b01001110#8],
     only [0b00100001#8, 0b01001110#8],
     only [0b01100000#8, 0b01001110#8],
     only [0b01100001#8, 0b01001110#8],
     only [0b10110000#8, 0b01001110#8],
     only [0b10110001#8, 0b01001110#8]]
    = [some (.dec_reg 0x4E#8),
       some (.dec_ireg 0x4E#8),
       some (.inc_reg 0x4E#8),
       some (.inc_ireg 0x4E#8),
       some (.com_reg 0x4E#8),
       some (.com_ireg 0x4E#8),
       some (.clr_reg 0x4E#8),
       some (.clr_ireg 0x4E#8)] := by decide

theorem test_decode_one_operand_2 :
    [only [0b10101110#8]]
    = [some (.inc_r 0xA#4)] := by decide

theorem test_decode_rotates_1 :
    [only [0b00010000#8, 0b01001110#8],
     only [0b00010001#8, 0b01001110#8],
     only [0b10010000#8, 0b01001110#8],
     only [0b10010001#8, 0b01001110#8],
     only [0b11000000#8, 0b01001110#8],
     only [0b11000001#8, 0b01001110#8],
     only [0b11010000#8, 0b01001110#8],
     only [0b11010001#8, 0b01001110#8]]
    = [some (.rlc_reg 0x4E#8),
       some (.rlc_ireg 0x4E#8),
       some (.rl_reg 0x4E#8),
       some (.rl_ireg 0x4E#8),
       some (.rrc_reg 0x4E#8),
       some (.rrc_ireg 0x4E#8),
       some (.sra_reg 0x4E#8),
       some (.sra_ireg 0x4E#8)] := by decide

theorem test_decode_rotates_2 :
    [only [0b11100000#8, 0b01001110#8],
     only [0b11100001#8, 0b01001110#8]]
    = [some (.rr_reg 0x4E#8),
       some (.rr_ireg 0x4E#8)] := by decide

theorem test_decode_stack :
    [only [0b01010000#8, 0b01001110#8],
     only [0b01010001#8, 0b01001110#8],
     only [0b01110000#8, 0b10110001#8],
     only [0b01110001#8, 0b10110001#8]]
    = [some (.pop_reg 0x4E#8),
       some (.pop_ireg 0x4E#8),
       some (.push_reg 0xB1#8),
       some (.push_ireg 0xB1#8)] := by decide

theorem test_decode_ld_1 :
    [only [0b10101100#8, 0b01111100#8],
     only [0b10101000#8, 0b10110001#8],
     only [0b01101001#8, 0b01001110#8],
     only [0b11000111#8, 0b10100110#8],
     only [0b11010111#8, 0b10100110#8],
     only [0b11100100#8, 0b10110001#8, 0b01001110#8],
     only [0b11100101#8, 0b10110001#8, 0b01001110#8],
     only [0b11100110#8, 0b01001110#8, 0b01111100#8]]
    = [some (.ld_r_im 0xA#4 0x7C#8),
       some (.ld_r_reg 0xA#4 0xB1#8),
       some (.ld_reg_r 0x4E#8 0x6#4),
       some (.ld_r_ir 0xA#4 0x6#4),
       some (.ld_ir_r 0xA#4 0x6#4),
       some (.ld_reg_reg 0x4E#8 0xB1#8),
       some (.ld_reg_ireg 0x4E#8 0xB1#8),
       some (.ld_reg_im 0x4E#8 0x7C#8)] := by decide

theorem test_decode_ld_2 :
    [only [0b11010110#8, 0b01001110#8, 0b01111100#8],
     only [0b11110101#8, 0b10110001#8, 0b01001110#8],
     only [0b10000111#8, 0b10101001#8, 0b10000101#8],
     only [0b10010111#8, 0b01101001#8, 0b10000101#8]]
    = [some (.ld_ireg_im 0x4E#8 0x7C#8),
       some (.ld_ireg_reg 0x4E#8 0xB1#8),
       some (.ld_r_x 0xA#4 0x85#8 0x9#4),
       some (.ld_x_r 0x85#8 0x9#4 0x6#4)] := by decide

theorem test_decode_ldc :
    [only [0b11000011#8, 0b10101010#8],
     only [0b11010011#8, 0b01101010#8],
     only [0b11100111#8, 0b10101010#8, 0b10000101#8],
     only [0b11110111#8, 0b01101010#8, 0b10000101#8],
     only [0b10100111#8, 0b10100000#8, 0b00110100#8, 0b00010010#8],
     only [0b10100111#8, 0b10101010#8, 0b00110100#8, 0b00010010#8],
     only [0b10110111#8, 0b01100000#8, 0b00110100#8, 0b00010010#8],
     only [0b10110111#8, 0b01101010#8, 0b00110100#8, 0b00010010#8]]
    = [some (.ldc_r_irr 0xA#4 0x5#3),
       some (.ldc_irr_r 0x5#3 0x6#4),
       some (.ldc_r_xs 0xA#4 0x85#8 0x5#3),
       some (.ldc_xs_r 0x85#8 0x5#3 0x6#4),
       some (.ldc_r_da 0xA#4 0x1234#16),
       some (.ldc_r_xl 0xA#4 0x1234#16 0x5#3),
       some (.ldc_da_r 0x1234#16 0x6#4),
       some (.ldc_xl_r 0x1234#16 0x5#3 0x6#4)] := by decide

theorem test_decode_lde :
    [only [0b11000011#8, 0b10101011#8],
     only [0b11010011#8, 0b01101011#8],
     only [0b11100111#8, 0b10101011#8, 0b10000101#8],
     only [0b11110111#8, 0b01101011#8, 0b10000101#8],
     only [0b10100111#8, 0b10100001#8, 0b00110100#8, 0b00010010#8],
     only [0b10100111#8, 0b10101011#8, 0b00110100#8, 0b00010010#8],
     only [0b10110111#8, 0b01100001#8, 0b00110100#8, 0b00010010#8],
     only [0b10110111#8, 0b01101011#8, 0b00110100#8, 0b00010010#8]]
    = [some (.lde_r_irr 0xA#4 0x5#3),
       some (.lde_irr_r 0x5#3 0x6#4),
       some (.lde_r_xs 0xA#4 0x85#8 0x5#3),
       some (.lde_xs_r 0x85#8 0x5#3 0x6#4),
       some (.lde_r_da 0xA#4 0x1234#16),
       some (.lde_r_xl 0xA#4 0x1234#16 0x5#3),
       some (.lde_da_r 0x1234#16 0x6#4),
       some (.lde_xl_r 0x1234#16 0x5#3 0x6#4)] := by decide

theorem test_decode_ldcd_to_ldei :
    [only [0b11100010#8, 0b10101010#8],
     only [0b11100010#8, 0b10101011#8],
     only [0b11100011#8, 0b10101010#8],
     only [0b11100011#8, 0b10101011#8]]
    = [some (.ldcd_r_irr 0xA#4 0x5#3),
       some (.lded_r_irr 0xA#4 0x5#3),
       some (.ldci_r_irr 0xA#4 0x5#3),
       some (.ldei_r_irr 0xA#4 0x5#3)] := by decide

theorem test_decode_jumps :
    [only [0b11110110#8, 0b00010010#8, 0b00110100#8],
     only [0b11110100#8, 0b01001110#8],
     only [0b11011101#8, 0b00010010#8, 0b00110100#8],
     only [0b00110000#8, 0b01001110#8],
     only [0b11011011#8, 0b11111011#8]]
    = [some (.call_da 0x1234#16),
       some (.call_ipair 0x4E#8),
       some (.jp_cc_da .pl 0x1234#16),
       some (.jp_ipair 0x4E#8),
       some (.jr_cc_ra .pl 0xFB#8)] := by decide

theorem test_decode_control_1 :
    [only [0b10111111#8],
     only [0b10101111#8],
     only [0b11101111#8],
     only [0b10001111#8],
     only [0b10011111#8],
     only [0b01101111#8],
     only [0b11111111#8],
     only [0b11001111#8]]
    = [some .iret,
       some .ret,
       some .ccf,
       some .di,
       some .ei,
       some .idle,
       some .nop,
       some .rcf] := by decide

theorem test_decode_control_2 :
    [only [0b11011111#8],
     only [0b01111111#8]]
    = [some .scf,
       some .stop] := by decide


/-! ### Well-formedness: the ill-formed term of each check is refused (30_encoding R65, R68) -/

theorem test_wf_ldc_r_xl : (Instr.ldc_r_xl 0#4 0x1000#16 0#3).wf = false := by decide
theorem test_wf_lde_r_xl : (Instr.lde_r_xl 0#4 0x1000#16 0#3).wf = false := by decide
theorem test_wf_ldc_xl_r : (Instr.ldc_xl_r 0x1000#16 0#3 0#4).wf = false := by decide
theorem test_wf_lde_xl_r : (Instr.lde_xl_r 0x1000#16 0#3 0#4).wf = false := by decide
theorem test_wf_config_sym : ({ Config.default with symAddr := flagsAddr } : Config).wf = false := by decide
theorem test_wf_config_stopcon : ({ Config.default with stopconAddr := some spAddr } : Config).wf = false := by
  decide
theorem test_wf_config_default : Config.default.wf = true := by decide

/-! ### One step of the spec's vectors -/

/-- The state after reset with these register-file locations written. -/
def given (regs : List (Byte × Byte)) : State := regs.foldl (fun s w => s.setReg w.1 w.2) State.reset

/-- One step on these bytes at pc gives these registers, this pc, and what `also` says. -/
def gives (s : State) (bytes : List Byte) (regs : List (Byte × Byte)) (pc : Addr)
    (also : State → Bool := fun _ => true) : Bool :=
  match step (s.loadImage s.pc bytes) with
  | .next t => (regs.all fun w => t.reg w.1 == w.2) && t.pc == pc && also t
  | _ => false

/-- One step on these bytes at pc stops with such a fault. -/
def stops (s : State) (bytes : List Byte) (p : Fault → Bool) : Bool :=
  match step (s.loadImage s.pc bytes) with
  | .fault f => p f
  | _ => false

theorem test_adc_source :
    -- S-ADC-1
    gives (given [(0x01#8, 0x20#8), (0x02#8, 0x03#8), (0x03#8, 0x0A#8), (0xC1#8, 0x10#8), (0xC2#8, 0x03#8), (0xD5#8, 0x80#8)])
      [0x12#8, 0x12#8]
      [(0xC1#8, 0x14#8), (0xD5#8, 0x00#8)] 0x0102#16 = true ∧
    -- S-ADC-2
    gives (given [(0x01#8, 0x20#8), (0x02#8, 0x03#8), (0x03#8, 0x0A#8), (0xC1#8, 0x10#8), (0xC2#8, 0x03#8), (0xD5#8, 0x80#8)])
      [0x13#8, 0x12#8]
      [(0xC1#8, 0x1B#8), (0xD5#8, 0x00#8)] 0x0102#16 = true ∧
    -- S-ADC-3
    gives (given [(0x01#8, 0x20#8), (0x02#8, 0x03#8), (0x03#8, 0x0A#8), (0xC1#8, 0x10#8), (0xC2#8, 0x03#8), (0xD5#8, 0x80#8)])
      [0x14#8, 0x02#8, 0x01#8]
      [(0x01#8, 0x24#8), (0xD5#8, 0x00#8)] 0x0103#16 = true ∧
    -- S-ADC-4
    gives (given [(0x01#8, 0x20#8), (0x02#8, 0x03#8), (0x03#8, 0x0A#8), (0xC1#8, 0x10#8), (0xC2#8, 0x03#8), (0xD5#8, 0x80#8)])
      [0x15#8, 0x02#8, 0x01#8]
      [(0x01#8, 0x2B#8), (0xD5#8, 0x00#8)] 0x0103#16 = true ∧
    -- S-ADC-5
    gives (given [(0x01#8, 0x20#8), (0x02#8, 0x03#8), (0x03#8, 0x0A#8), (0xC1#8, 0x10#8), (0xC2#8, 0x03#8), (0xD5#8, 0x80#8)])
      [0x16#8, 0x01#8, 0x11#8]
      [(0x01#8, 0x32#8), (0xD5#8, 0x00#8)] 0x0103#16 = true := by
  decide

theorem test_add_source :
    -- S-ADD-1
    gives (given [(0x01#8, 0x21#8), (0x02#8, 0x03#8), (0x03#8, 0x0A#8), (0xC1#8, 0x12#8), (0xC2#8, 0x03#8)])
      [0x02#8, 0x12#8]
      [(0xC1#8, 0x15#8), (0xD5#8, 0x00#8)] 0x0102#16 = true ∧
    -- S-ADD-2
    gives (given [(0x01#8, 0x21#8), (0x02#8, 0x03#8), (0x03#8, 0x0A#8), (0xC1#8, 0x12#8), (0xC2#8, 0x03#8)])
      [0x03#8, 0x12#8]
      [(0xC1#8, 0x1C#8), (0xD5#8, 0x00#8)] 0x0102#16 = true ∧
    -- S-ADD-3
    gives (given [(0x01#8, 0x21#8), (0x02#8, 0x03#8), (0x03#8, 0x0A#8), (0xC1#8, 0x12#8), (0xC2#8, 0x03#8)])
      [0x04#8, 0x02#8, 0x01#8]
      [(0x01#8, 0x24#8), (0xD5#8, 0x00#8)] 0x0103#16 = true ∧
    -- S-ADD-4
    gives (given [(0x01#8, 0x21#8), (0x02#8, 0x03#8), (0x03#8, 0x0A#8), (0xC1#8, 0x12#8), (0xC2#8, 0x03#8)])
      [0x05#8, 0x02#8, 0x01#8]
      [(0x01#8, 0x2B#8), (0xD5#8, 0x00#8)] 0x0103#16 = true ∧
    -- S-ADD-5
    gives (given [(0x01#8, 0x21#8), (0x02#8, 0x03#8), (0x03#8, 0x0A#8), (0xC1#8, 0x12#8), (0xC2#8, 0x03#8)])
      [0x06#8, 0x01#8, 0x25#8]
      [(0x01#8, 0x46#8), (0xD5#8, 0x00#8)] 0x0103#16 = true := by
  decide

theorem test_and_source :
    -- S-AND-1
    gives (given [(0x01#8, 0x21#8), (0x02#8, 0x03#8), (0x03#8, 0x0A#8), (0xC1#8, 0x12#8), (0xC2#8, 0x03#8)])
      [0x52#8, 0x12#8]
      [(0xC1#8, 0x02#8), (0xD5#8, 0x00#8)] 0x0102#16 = true ∧
    -- S-AND-2
    gives (given [(0x01#8, 0x21#8), (0x02#8, 0x03#8), (0x03#8, 0x0A#8), (0xC1#8, 0x12#8), (0xC2#8, 0x03#8)])
      [0x53#8, 0x12#8]
      [(0xC1#8, 0x02#8), (0xD5#8, 0x00#8)] 0x0102#16 = true ∧
    -- S-AND-3
    gives (given [(0x01#8, 0x21#8), (0x02#8, 0x03#8), (0x03#8, 0x0A#8), (0xC1#8, 0x12#8), (0xC2#8, 0x03#8)])
      [0x54#8, 0x02#8, 0x01#8]
      [(0x01#8, 0x01#8), (0xD5#8, 0x00#8)] 0x0103#16 = true ∧
    -- S-AND-4
    gives (given [(0x01#8, 0x21#8), (0x02#8, 0x03#8), (0x03#8, 0x0A#8), (0xC1#8, 0x12#8), (0xC2#8, 0x03#8)])
      [0x55#8, 0x02#8, 0x01#8]
      [(0x01#8, 0x00#8), (0xD5#8, 0x40#8)] 0x0103#16 = true ∧
    -- S-AND-5
    gives (given [(0x01#8, 0x21#8), (0x02#8, 0x03#8), (0x03#8, 0x0A#8), (0xC1#8, 0x12#8), (0xC2#8, 0x03#8)])
      [0x56#8, 0x01#8, 0x25#8]
      [(0xD5#8, 0x00#8)] 0x0103#16 = true := by
  decide

theorem test_call_source :
    -- S-CALL-1
    gives { given [(0xC0#8, 0x15#8), (0xC1#8, 0x21#8), (0xD9#8, 0xB2#8)] with pc := 0x1A47#16 }
      [0xF6#8, 0x15#8, 0x21#8]
      [(0xB0#8, 0x1A#8), (0xB1#8, 0x4A#8), (0xD9#8, 0xB0#8)] 0x1521#16 = true ∧
    -- S-CALL-2
    gives { given [(0xC0#8, 0x15#8), (0xC1#8, 0x21#8), (0xD9#8, 0xB2#8)] with pc := 0x1A47#16 }
      [0xF4#8, 0xC0#8]
      [(0xB0#8, 0x1A#8), (0xB1#8, 0x49#8), (0xD9#8, 0xB0#8)] 0x1521#16 = true := by
  decide

theorem test_ccf_source :
    -- S-CCF-1
    gives (given []) [0xEF#8]
      [(0xD5#8, 0x80#8)] 0x0101#16 = true := by
  decide

theorem test_clr_source :
    -- S-CLR-1
    gives (given [(0x00#8, 0x4F#8), (0x01#8, 0x02#8), (0x02#8, 0x5E#8)])
      [0xB0#8, 0x00#8]
      [(0x00#8, 0x00#8)] 0x0102#16 = true ∧
    -- S-CLR-2
    gives (given [(0x00#8, 0x4F#8), (0x01#8, 0x02#8), (0x02#8, 0x5E#8)])
      [0xB1#8, 0x01#8]
      [(0x02#8, 0x00#8)] 0x0102#16 = true := by
  decide

theorem test_com_source :
    -- S-COM-1
    gives (given [(0x07#8, 0xF1#8), (0xC1#8, 0x07#8)]) [0x60#8, 0xC1#8]
      [(0xC1#8, 0xF8#8), (0xD5#8, 0x20#8)] 0x0102#16 = true ∧
    -- S-COM-2
    gives (given [(0x07#8, 0xF1#8), (0xC1#8, 0x07#8)]) [0x61#8, 0xC1#8]
      [(0x07#8, 0x0E#8), (0xD5#8, 0x00#8)] 0x0102#16 = true := by
  decide

theorem test_cp_source :
    -- S-CP-1
    gives (given [(0xC1#8, 0x02#8), (0xC2#8, 0x03#8)]) [0xA2#8, 0x12#8]
      [(0xD5#8, 0xA0#8)] 0x0102#16 = true := by
  decide

theorem test_dec_source :
    -- S-DEC-1
    gives (given [(0x03#8, 0x10#8), (0xC1#8, 0x03#8)]) [0x00#8, 0xC1#8]
      [(0xC1#8, 0x02#8), (0xD5#8, 0x00#8)] 0x0102#16 = true ∧
    -- S-DEC-2
    gives (given [(0x03#8, 0x10#8), (0xC1#8, 0x03#8)]) [0x01#8, 0xC1#8]
      [(0x03#8, 0x0F#8), (0xD5#8, 0x00#8)] 0x0102#16 = true := by
  decide

theorem test_di_source :
    -- S-DI-1
    gives (given [(0xDF#8, 0x04#8)]) [0x8F#8]
      [(0xDF#8, 0x00#8)] 0x0101#16 = true := by
  decide

theorem test_ei_source :
    -- S-EI-1
    gives (given [(0xDF#8, 0x00#8)]) [0x9F#8]
      [(0xDF#8, 0x04#8)] 0x0101#16 = true := by
  decide

theorem test_idle_source :
    -- S-IDLE-1
    gives (given []) [0x6F#8]
      [] 0x0101#16 (fun t => t.runState == .idle) = true := by
  decide

theorem test_inc_source :
    -- S-INC-1
    gives (given [(0x00#8, 0x0C#8), (0x1B#8, 0x0F#8), (0xC0#8, 0x1B#8)])
      [0x0E#8]
      [(0xC0#8, 0x1C#8), (0xD5#8, 0x00#8)] 0x0101#16 = true ∧
    -- S-INC-2
    gives (given [(0x00#8, 0x0C#8), (0x1B#8, 0x0F#8), (0xC0#8, 0x1B#8)])
      [0x20#8, 0x00#8]
      [(0x00#8, 0x0D#8), (0xD5#8, 0x00#8)] 0x0102#16 = true ∧
    -- S-INC-3
    gives (given [(0x00#8, 0x0C#8), (0x1B#8, 0x0F#8), (0xC0#8, 0x1B#8)])
      [0x21#8, 0xC0#8]
      [(0x1B#8, 0x10#8), (0xD5#8, 0x00#8)] 0x0102#16 = true := by
  decide

theorem test_jp_source :
    -- S-JP-1
    gives (given [(0x00#8, 0x01#8), (0x01#8, 0x20#8), (0xD5#8, 0x80#8)])
      [0x7D#8, 0x10#8, 0x00#8]
      [] 0x1000#16 = true ∧
    -- S-JP-2
    gives (given [(0x00#8, 0x01#8), (0x01#8, 0x20#8), (0xD5#8, 0x80#8)])
      [0x30#8, 0x00#8]
      [] 0x0120#16 = true := by
  decide

theorem test_jr_source :
    -- S-JR-1
    gives { given [(0xD5#8, 0x80#8)] with pc := 0x1FF0#16 }
      [0x7B#8, 0x05#8]
      [] 0x1FF7#16 = true := by
  decide

theorem test_ld_source :
    -- S-LD-1
    gives (given [(0x00#8, 0x01#8), (0x01#8, 0x20#8), (0x02#8, 0x02#8), (0x3A#8, 0xFF#8), (0xC0#8, 0x01#8), (0xC1#8, 0x0A#8)])
      [0x0C#8, 0x10#8]
      [(0xC0#8, 0x10#8)] 0x0102#16 = true ∧
    -- S-LD-2
    gives (given [(0x00#8, 0x01#8), (0x01#8, 0x20#8), (0x02#8, 0x02#8), (0x3A#8, 0xFF#8), (0xC0#8, 0x01#8), (0xC1#8, 0x0A#8)])
      [0x08#8, 0x01#8]
      [(0xC0#8, 0x20#8)] 0x0102#16 = true ∧
    -- S-LD-3
    gives (given [(0x00#8, 0x01#8), (0x01#8, 0x20#8), (0x02#8, 0x02#8), (0x3A#8, 0xFF#8), (0xC0#8, 0x01#8), (0xC1#8, 0x0A#8)])
      [0x09#8, 0x01#8]
      [(0x01#8, 0x01#8)] 0x0102#16 = true ∧
    -- S-LD-4
    gives (given [(0x00#8, 0x01#8), (0x01#8, 0x20#8), (0x02#8, 0x02#8), (0x3A#8, 0xFF#8), (0xC0#8, 0x01#8), (0xC1#8, 0x0A#8)])
      [0xC7#8, 0x10#8]
      [(0xC1#8, 0x20#8)] 0x0102#16 = true ∧
    -- S-LD-5
    gives (given [(0x00#8, 0x01#8), (0x01#8, 0x20#8), (0x02#8, 0x02#8), (0x3A#8, 0xFF#8), (0xC0#8, 0x01#8), (0xC1#8, 0x0A#8)])
      [0xD7#8, 0x01#8]
      [(0x01#8, 0x0A#8)] 0x0102#16 = true ∧
    -- S-LD-6
    gives (given [(0x00#8, 0x01#8), (0x01#8, 0x20#8), (0x02#8, 0x02#8), (0x3A#8, 0xFF#8), (0xC0#8, 0x01#8), (0xC1#8, 0x0A#8)])
      [0xE4#8, 0x01#8, 0x00#8]
      [(0x00#8, 0x20#8)] 0x0103#16 = true := by
  decide

theorem test_ldc_source :
    -- S-LDC-1
    gives { given [(0xC0#8, 0x11#8), (0xC1#8, 0x34#8), (0xC2#8, 0x01#8), (0xC3#8, 0x04#8), (0xC4#8, 0x00#8), (0xC5#8, 0x60#8)] with pc := 0x0200#16, pm := [(0x61, 0xAA#8), (0x104, 0x1A#8), (0x1104, 0x88#8)], dm := [(0x61, 0xBB#8), (0x104, 0x2A#8), (0x1104, 0x98#8)] }
      [0xC3#8, 0x02#8]
      [(0xC0#8, 0x1A#8)] 0x0202#16 = true ∧
    -- S-LDC-3
    gives { given [(0xC0#8, 0x11#8), (0xC1#8, 0x34#8), (0xC2#8, 0x01#8), (0xC3#8, 0x04#8), (0xC4#8, 0x00#8), (0xC5#8, 0x60#8)] with pc := 0x0200#16, pm := [(0x61, 0xAA#8), (0x104, 0x1A#8), (0x1104, 0x88#8)], dm := [(0x61, 0xBB#8), (0x104, 0x2A#8), (0x1104, 0x98#8)], cfg := { Config.default with pmWritable := true } }
      [0xD3#8, 0x02#8]
      [] 0x0202#16 (fun t => t.pmByte 0x104 == 0x11#8) = true ∧
    -- S-LDC-5
    gives { given [(0xC0#8, 0x11#8), (0xC1#8, 0x34#8), (0xC2#8, 0x01#8), (0xC3#8, 0x04#8), (0xC4#8, 0x00#8), (0xC5#8, 0x60#8)] with pc := 0x0200#16, pm := [(0x61, 0xAA#8), (0x104, 0x1A#8), (0x1104, 0x88#8)], dm := [(0x61, 0xBB#8), (0x104, 0x2A#8), (0x1104, 0x98#8)] }
      [0xE7#8, 0x04#8, 0x01#8]
      [(0xC0#8, 0xAA#8)] 0x0203#16 = true ∧
    -- S-LDC-7
    gives { given [(0xC0#8, 0x11#8), (0xC1#8, 0x34#8), (0xC2#8, 0x01#8), (0xC3#8, 0x04#8), (0xC4#8, 0x00#8), (0xC5#8, 0x60#8)] with pc := 0x0200#16, pm := [(0x61, 0xAA#8), (0x104, 0x1A#8), (0x1104, 0x88#8)], dm := [(0x61, 0xBB#8), (0x104, 0x2A#8), (0x1104, 0x98#8)], cfg := { Config.default with pmWritable := true } }
      [0xF7#8, 0x04#8, 0x01#8]
      [] 0x0203#16 (fun t => t.pmByte 0x61 == 0x11#8) = true ∧
    -- S-LDC-9
    gives { given [(0xC0#8, 0x11#8), (0xC1#8, 0x34#8), (0xC2#8, 0x01#8), (0xC3#8, 0x04#8), (0xC4#8, 0x00#8), (0xC5#8, 0x60#8)] with pc := 0x0200#16, pm := [(0x61, 0xAA#8), (0x104, 0x1A#8), (0x1104, 0x88#8)], dm := [(0x61, 0xBB#8), (0x104, 0x2A#8), (0x1104, 0x98#8)] }
      [0xA7#8, 0x02#8, 0x00#8, 0x10#8]
      [(0xC0#8, 0x88#8)] 0x0204#16 = true ∧
    -- S-LDC-11
    gives { given [(0xC0#8, 0x11#8), (0xC1#8, 0x34#8), (0xC2#8, 0x01#8), (0xC3#8, 0x04#8), (0xC4#8, 0x00#8), (0xC5#8, 0x60#8)] with pc := 0x0200#16, pm := [(0x61, 0xAA#8), (0x104, 0x1A#8), (0x1104, 0x88#8)], dm := [(0x61, 0xBB#8), (0x104, 0x2A#8), (0x1104, 0x98#8)] }
      [0xA7#8, 0x00#8, 0x04#8, 0x11#8]
      [(0xC0#8, 0x88#8)] 0x0204#16 = true := by
  decide

theorem test_lde_source :
    -- S-LDC-2
    gives { given [(0xC0#8, 0x11#8), (0xC1#8, 0x34#8), (0xC2#8, 0x01#8), (0xC3#8, 0x04#8), (0xC4#8, 0x00#8), (0xC5#8, 0x60#8)] with pc := 0x0200#16, pm := [(0x61, 0xAA#8), (0x104, 0x1A#8), (0x1104, 0x88#8)], dm := [(0x61, 0xBB#8), (0x104, 0x2A#8), (0x1104, 0x98#8)] }
      [0xC3#8, 0x03#8]
      [(0xC0#8, 0x2A#8)] 0x0202#16 = true ∧
    -- S-LDC-4
    gives { given [(0xC0#8, 0x11#8), (0xC1#8, 0x34#8), (0xC2#8, 0x01#8), (0xC3#8, 0x04#8), (0xC4#8, 0x00#8), (0xC5#8, 0x60#8)] with pc := 0x0200#16, pm := [(0x61, 0xAA#8), (0x104, 0x1A#8), (0x1104, 0x88#8)], dm := [(0x61, 0xBB#8), (0x104, 0x2A#8), (0x1104, 0x98#8)] }
      [0xD3#8, 0x03#8]
      [] 0x0202#16 (fun t => t.dmByte 0x104 == 0x11#8) = true ∧
    -- S-LDC-6
    gives { given [(0xC0#8, 0x11#8), (0xC1#8, 0x34#8), (0xC2#8, 0x01#8), (0xC3#8, 0x04#8), (0xC4#8, 0x00#8), (0xC5#8, 0x60#8)] with pc := 0x0200#16, pm := [(0x61, 0xAA#8), (0x104, 0x1A#8), (0x1104, 0x88#8)], dm := [(0x61, 0xBB#8), (0x104, 0x2A#8), (0x1104, 0x98#8)] }
      [0xE7#8, 0x05#8, 0x01#8]
      [(0xC0#8, 0xBB#8)] 0x0203#16 = true ∧
    -- S-LDC-8
    gives { given [(0xC0#8, 0x11#8), (0xC1#8, 0x34#8), (0xC2#8, 0x01#8), (0xC3#8, 0x04#8), (0xC4#8, 0x00#8), (0xC5#8, 0x60#8)] with pc := 0x0200#16, pm := [(0x61, 0xAA#8), (0x104, 0x1A#8), (0x1104, 0x88#8)], dm := [(0x61, 0xBB#8), (0x104, 0x2A#8), (0x1104, 0x98#8)] }
      [0xF7#8, 0x05#8, 0x01#8]
      [] 0x0203#16 (fun t => t.dmByte 0x61 == 0x11#8) = true ∧
    -- S-LDC-10
    gives { given [(0xC0#8, 0x11#8), (0xC1#8, 0x34#8), (0xC2#8, 0x01#8), (0xC3#8, 0x04#8), (0xC4#8, 0x00#8), (0xC5#8, 0x60#8)] with pc := 0x0200#16, pm := [(0x61, 0xAA#8), (0x104, 0x1A#8), (0x1104, 0x88#8)], dm := [(0x61, 0xBB#8), (0x104, 0x2A#8), (0x1104, 0x98#8)] }
      [0xA7#8, 0x03#8, 0x00#8, 0x10#8]
      [(0xC0#8, 0x98#8)] 0x0204#16 = true ∧
    -- S-LDC-12
    gives { given [(0xC0#8, 0x11#8), (0xC1#8, 0x34#8), (0xC2#8, 0x01#8), (0xC3#8, 0x04#8), (0xC4#8, 0x00#8), (0xC5#8, 0x60#8)] with pc := 0x0200#16, pm := [(0x61, 0xAA#8), (0x104, 0x1A#8), (0x1104, 0x88#8)], dm := [(0x61, 0xBB#8), (0x104, 0x2A#8), (0x1104, 0x98#8)] }
      [0xA7#8, 0x01#8, 0x04#8, 0x11#8]
      [(0xC0#8, 0x98#8)] 0x0204#16 = true := by
  decide

theorem test_ldcd_source :
    -- S-LDCD-1
    gives { given [(0xC6#8, 0x10#8), (0xC7#8, 0x33#8), (0xC8#8, 0x12#8)] with pm := [(0x1033, 0xCD#8)], dm := [(0x1033, 0xDD#8)] }
      [0xE2#8, 0x86#8]
      [(0xC7#8, 0x32#8), (0xC8#8, 0xCD#8)] 0x0102#16 = true := by
  decide

theorem test_lded_source :
    -- S-LDCD-2
    gives { given [(0xC6#8, 0x10#8), (0xC7#8, 0x33#8), (0xC8#8, 0x12#8)] with pm := [(0x1033, 0xCD#8)], dm := [(0x1033, 0xDD#8)] }
      [0xE2#8, 0x87#8]
      [(0xC7#8, 0x32#8), (0xC8#8, 0xDD#8)] 0x0102#16 = true := by
  decide

theorem test_ldci_source :
    -- S-LDCI-1
    gives { given [(0xC6#8, 0x10#8), (0xC7#8, 0x33#8), (0xC8#8, 0x12#8)] with pm := [(0x1033, 0xCD#8), (0x1034, 0xC5#8)], dm := [(0x1033, 0xDD#8), (0x1034, 0xD5#8)] }
      [0xE3#8, 0x86#8]
      [(0xC7#8, 0x34#8), (0xC8#8, 0xCD#8)] 0x0102#16 = true := by
  decide

theorem test_ldei_source :
    -- S-LDCI-2
    gives { given [(0xC6#8, 0x10#8), (0xC7#8, 0x33#8), (0xC8#8, 0x12#8)] with pm := [(0x1033, 0xCD#8), (0x1034, 0xC5#8)], dm := [(0x1033, 0xDD#8), (0x1034, 0xD5#8)] }
      [0xE3#8, 0x87#8]
      [(0xC7#8, 0x34#8), (0xC8#8, 0xDD#8)] 0x0102#16 = true := by
  decide

theorem test_or_source :
    -- S-OR-1
    gives (given [(0x00#8, 0x08#8), (0x01#8, 0x37#8), (0x08#8, 0x8A#8), (0xC0#8, 0x15#8), (0xC1#8, 0x2A#8), (0xC2#8, 0x01#8)])
      [0x42#8, 0x01#8]
      [(0xC0#8, 0x3F#8), (0xD5#8, 0x00#8)] 0x0102#16 = true ∧
    -- S-OR-2
    gives (given [(0x00#8, 0x08#8), (0x01#8, 0x37#8), (0x08#8, 0x8A#8), (0xC0#8, 0x15#8), (0xC1#8, 0x2A#8), (0xC2#8, 0x01#8)])
      [0x43#8, 0x02#8]
      [(0xC0#8, 0x37#8), (0xD5#8, 0x00#8)] 0x0102#16 = true ∧
    -- S-OR-3
    gives (given [(0x00#8, 0x08#8), (0x01#8, 0x37#8), (0x08#8, 0x8A#8), (0xC0#8, 0x15#8), (0xC1#8, 0x2A#8), (0xC2#8, 0x01#8)])
      [0x44#8, 0x01#8, 0x00#8]
      [(0x00#8, 0x3F#8), (0xD5#8, 0x00#8)] 0x0103#16 = true ∧
    -- S-OR-4
    gives (given [(0x00#8, 0x08#8), (0x01#8, 0x37#8), (0x08#8, 0x8A#8), (0xC0#8, 0x15#8), (0xC1#8, 0x2A#8), (0xC2#8, 0x01#8)])
      [0x45#8, 0x00#8, 0x01#8]
      [(0x01#8, 0xBF#8), (0xD5#8, 0x20#8)] 0x0103#16 = true ∧
    -- S-OR-5
    gives (given [(0x00#8, 0x08#8), (0x01#8, 0x37#8), (0x08#8, 0x8A#8), (0xC0#8, 0x15#8), (0xC1#8, 0x2A#8), (0xC2#8, 0x01#8)])
      [0x46#8, 0x00#8, 0x02#8]
      [(0x00#8, 0x0A#8), (0xD5#8, 0x00#8)] 0x0103#16 = true := by
  decide

theorem test_pop_source :
    -- S-POP-1
    gives (given [(0x00#8, 0x01#8), (0x01#8, 0x1B#8), (0xBB#8, 0x55#8), (0xD9#8, 0xBB#8)])
      [0x50#8, 0x00#8]
      [(0x00#8, 0x55#8), (0xD9#8, 0xBC#8)] 0x0102#16 = true ∧
    -- S-POP-2
    gives (given [(0x00#8, 0x01#8), (0x01#8, 0x1B#8), (0xBB#8, 0x55#8), (0xD9#8, 0xBB#8)])
      [0x51#8, 0x00#8]
      [(0x01#8, 0x55#8), (0xD9#8, 0xBC#8)] 0x0102#16 = true := by
  decide

theorem test_push_source :
    -- S-PUSH-1
    gives (given [(0x40#8, 0x4F#8), (0x4F#8, 0xAA#8), (0xD9#8, 0xC0#8)])
      [0x70#8, 0x40#8]
      [(0xBF#8, 0x4F#8), (0xD9#8, 0xBF#8)] 0x0102#16 = true ∧
    -- S-PUSH-2
    gives (given [(0x40#8, 0x4F#8), (0x4F#8, 0xAA#8), (0xD9#8, 0xC0#8)])
      [0x71#8, 0x40#8]
      [(0xBF#8, 0xAA#8), (0xD9#8, 0xBF#8)] 0x0102#16 = true := by
  decide

theorem test_rcf_source :
    -- S-RCF-1
    gives (given [(0xD5#8, 0xC0#8)]) [0xCF#8]
      [(0xD5#8, 0x40#8)] 0x0101#16 = true := by
  decide

theorem test_ret_source :
    -- S-RET-1
    gives { given [(0xBC#8, 0x10#8), (0xBD#8, 0x1A#8), (0xD9#8, 0xBC#8)] with pc := 0x1234#16 }
      [0xAF#8]
      [(0xD9#8, 0xBE#8)] 0x101A#16 = true := by
  decide

theorem test_rl_source :
    -- S-RL-1
    gives (given [(0x00#8, 0xAA#8), (0x01#8, 0x02#8), (0x02#8, 0x17#8)])
      [0x90#8, 0x00#8]
      [(0x00#8, 0x55#8), (0xD5#8, 0x90#8)] 0x0102#16 = true ∧
    -- S-RL-2
    gives (given [(0x00#8, 0xAA#8), (0x01#8, 0x02#8), (0x02#8, 0x17#8)])
      [0x91#8, 0x01#8]
      [(0x02#8, 0x2E#8), (0xD5#8, 0x00#8)] 0x0102#16 = true := by
  decide

theorem test_rlc_source :
    -- S-RLC-1
    gives (given [(0x00#8, 0xAA#8), (0x01#8, 0x02#8), (0x02#8, 0x17#8)])
      [0x10#8, 0x00#8]
      [(0x00#8, 0x54#8), (0xD5#8, 0x90#8)] 0x0102#16 = true ∧
    -- S-RLC-2
    gives (given [(0x00#8, 0xAA#8), (0x01#8, 0x02#8), (0x02#8, 0x17#8)])
      [0x11#8, 0x01#8]
      [(0x02#8, 0x2E#8), (0xD5#8, 0x00#8)] 0x0102#16 = true := by
  decide

theorem test_rr_source :
    -- S-RR-1
    gives (given [(0x00#8, 0x31#8), (0x01#8, 0x02#8), (0x02#8, 0x17#8)])
      [0xE0#8, 0x00#8]
      [(0x00#8, 0x98#8), (0xD5#8, 0xB0#8)] 0x0102#16 = true ∧
    -- S-RR-2
    gives (given [(0x00#8, 0x31#8), (0x01#8, 0x02#8), (0x02#8, 0x17#8)])
      [0xE1#8, 0x01#8]
      [(0x02#8, 0x8B#8), (0xD5#8, 0xB0#8)] 0x0102#16 = true := by
  decide

theorem test_rrc_source :
    -- S-RRC-1
    gives (given [(0x00#8, 0x55#8), (0x01#8, 0x02#8), (0x02#8, 0x17#8)])
      [0xC0#8, 0x00#8]
      [(0x00#8, 0x2A#8), (0xD5#8, 0x80#8)] 0x0102#16 = true ∧
    -- S-RRC-2
    gives (given [(0x00#8, 0x55#8), (0x01#8, 0x02#8), (0x02#8, 0x17#8)])
      [0xC1#8, 0x01#8]
      [(0x02#8, 0x0B#8), (0xD5#8, 0x80#8)] 0x0102#16 = true := by
  decide

theorem test_sbc_source :
    -- S-SBC-1
    gives (given [(0x01#8, 0x20#8), (0x02#8, 0x03#8), (0x03#8, 0x0A#8), (0xC1#8, 0x10#8), (0xC2#8, 0x03#8), (0xD5#8, 0x80#8)])
      [0x32#8, 0x12#8]
      [(0xC1#8, 0x0C#8), (0xD5#8, 0x00#8)] 0x0102#16 = true ∧
    -- S-SBC-2
    gives (given [(0x01#8, 0x20#8), (0x02#8, 0x03#8), (0x03#8, 0x0A#8), (0xC1#8, 0x10#8), (0xC2#8, 0x03#8), (0xD5#8, 0x80#8)])
      [0x33#8, 0x12#8]
      [(0xC1#8, 0x05#8), (0xD5#8, 0x00#8)] 0x0102#16 = true ∧
    -- S-SBC-3
    gives (given [(0x01#8, 0x20#8), (0x02#8, 0x03#8), (0x03#8, 0x0A#8), (0xC1#8, 0x10#8), (0xC2#8, 0x03#8), (0xD5#8, 0x80#8)])
      [0x34#8, 0x02#8, 0x01#8]
      [(0x01#8, 0x1C#8), (0xD5#8, 0x00#8)] 0x0103#16 = true ∧
    -- S-SBC-4
    gives (given [(0x01#8, 0x20#8), (0x02#8, 0x03#8), (0x03#8, 0x0A#8), (0xC1#8, 0x10#8), (0xC2#8, 0x03#8), (0xD5#8, 0x80#8)])
      [0x35#8, 0x02#8, 0x01#8]
      [(0x01#8, 0x15#8), (0xD5#8, 0x00#8)] 0x0103#16 = true ∧
    -- S-SBC-5
    gives (given [(0x01#8, 0x20#8), (0x02#8, 0x03#8), (0x03#8, 0x0A#8), (0xC1#8, 0x10#8), (0xC2#8, 0x03#8), (0xD5#8, 0x80#8)])
      [0x36#8, 0x01#8, 0x8A#8]
      [(0x01#8, 0x95#8), (0xD5#8, 0xB0#8)] 0x0103#16 = true := by
  decide

theorem test_scf_source :
    -- S-SCF-1
    gives (given []) [0xDF#8]
      [(0xD5#8, 0x80#8)] 0x0101#16 = true := by
  decide

theorem test_sra_source :
    -- S-SRA-1
    gives (given [(0x00#8, 0x9A#8), (0x02#8, 0x03#8), (0x03#8, 0xBC#8), (0xD5#8, 0x80#8)])
      [0xD0#8, 0x00#8]
      [(0x00#8, 0xCD#8), (0xD5#8, 0x20#8)] 0x0102#16 = true ∧
    -- S-SRA-2
    gives (given [(0x00#8, 0x9A#8), (0x02#8, 0x03#8), (0x03#8, 0xBC#8), (0xD5#8, 0x80#8)])
      [0xD1#8, 0x02#8]
      [(0x03#8, 0xDE#8), (0xD5#8, 0x20#8)] 0x0102#16 = true := by
  decide

theorem test_sub_source :
    -- S-SUB-1
    gives (given [(0x01#8, 0x21#8), (0x02#8, 0x03#8), (0x03#8, 0x0A#8), (0xC1#8, 0x12#8), (0xC2#8, 0x03#8)])
      [0x22#8, 0x12#8]
      [(0xC1#8, 0x0F#8), (0xD5#8, 0x00#8)] 0x0102#16 = true ∧
    -- S-SUB-2
    gives (given [(0x01#8, 0x21#8), (0x02#8, 0x03#8), (0x03#8, 0x0A#8), (0xC1#8, 0x12#8), (0xC2#8, 0x03#8)])
      [0x23#8, 0x12#8]
      [(0xC1#8, 0x08#8), (0xD5#8, 0x00#8)] 0x0102#16 = true ∧
    -- S-SUB-3
    gives (given [(0x01#8, 0x21#8), (0x02#8, 0x03#8), (0x03#8, 0x0A#8), (0xC1#8, 0x12#8), (0xC2#8, 0x03#8)])
      [0x24#8, 0x02#8, 0x01#8]
      [(0x01#8, 0x1E#8), (0xD5#8, 0x00#8)] 0x0103#16 = true ∧
    -- S-SUB-4
    gives (given [(0x01#8, 0x21#8), (0x02#8, 0x03#8), (0x03#8, 0x0A#8), (0xC1#8, 0x12#8), (0xC2#8, 0x03#8)])
      [0x25#8, 0x02#8, 0x01#8]
      [(0x01#8, 0x17#8), (0xD5#8, 0x00#8)] 0x0103#16 = true ∧
    -- S-SUB-5
    gives (given [(0x01#8, 0x21#8), (0x02#8, 0x03#8), (0x03#8, 0x0A#8), (0xC1#8, 0x12#8), (0xC2#8, 0x03#8)])
      [0x26#8, 0x01#8, 0x90#8]
      [(0x01#8, 0x91#8), (0xD5#8, 0xB0#8)] 0x0103#16 = true ∧
    -- S-SUB-6
    gives (given [(0x01#8, 0x21#8), (0x02#8, 0x03#8), (0x03#8, 0x0A#8), (0xC1#8, 0x12#8), (0xC2#8, 0x03#8)])
      [0x26#8, 0x01#8, 0x65#8]
      [(0x01#8, 0xBC#8), (0xD5#8, 0xA0#8)] 0x0103#16 = true := by
  decide

theorem test_tcm_source :
    -- S-TCM-1
    gives (given [(0x00#8, 0x2B#8), (0x01#8, 0x02#8), (0x02#8, 0x23#8), (0xC0#8, 0xC7#8), (0xC1#8, 0x02#8), (0xC2#8, 0x12#8)])
      [0x62#8, 0x01#8]
      [(0xD5#8, 0x40#8)] 0x0102#16 = true ∧
    -- S-TCM-2
    gives (given [(0x00#8, 0x2B#8), (0x01#8, 0x02#8), (0x02#8, 0x23#8), (0xC0#8, 0xC7#8), (0xC1#8, 0x02#8), (0xC2#8, 0x12#8)])
      [0x63#8, 0x01#8]
      [(0xD5#8, 0x00#8)] 0x0102#16 = true ∧
    -- S-TCM-3
    gives (given [(0x00#8, 0x2B#8), (0x01#8, 0x02#8), (0x02#8, 0x23#8), (0xC0#8, 0xC7#8), (0xC1#8, 0x02#8), (0xC2#8, 0x12#8)])
      [0x64#8, 0x01#8, 0x00#8]
      [(0xD5#8, 0x40#8)] 0x0103#16 = true ∧
    -- S-TCM-4
    gives (given [(0x00#8, 0x2B#8), (0x01#8, 0x02#8), (0x02#8, 0x23#8), (0xC0#8, 0xC7#8), (0xC1#8, 0x02#8), (0xC2#8, 0x12#8)])
      [0x65#8, 0x01#8, 0x00#8]
      [(0xD5#8, 0x40#8)] 0x0103#16 = true ∧
    -- S-TCM-5
    gives (given [(0x00#8, 0x2B#8), (0x01#8, 0x02#8), (0x02#8, 0x23#8), (0xC0#8, 0xC7#8), (0xC1#8, 0x02#8), (0xC2#8, 0x12#8)])
      [0x66#8, 0x00#8, 0x34#8]
      [(0xD5#8, 0x00#8)] 0x0103#16 = true := by
  decide

theorem test_tm_source :
    -- S-TM-1
    gives (given [(0x00#8, 0x2B#8), (0x01#8, 0x02#8), (0x02#8, 0x23#8), (0xC0#8, 0xC7#8), (0xC1#8, 0x02#8), (0xC2#8, 0x18#8)])
      [0x72#8, 0x01#8]
      [(0xD5#8, 0x00#8)] 0x0102#16 = true ∧
    -- S-TM-2
    gives (given [(0x00#8, 0x2B#8), (0x01#8, 0x02#8), (0x02#8, 0x23#8), (0xC0#8, 0xC7#8), (0xC1#8, 0x02#8), (0xC2#8, 0x18#8)])
      [0x73#8, 0x01#8]
      [(0xD5#8, 0x00#8)] 0x0102#16 = true ∧
    -- S-TM-3
    gives (given [(0x00#8, 0x2B#8), (0x01#8, 0x02#8), (0x02#8, 0x23#8), (0xC0#8, 0xC7#8), (0xC1#8, 0x02#8), (0xC2#8, 0x18#8)])
      [0x74#8, 0x01#8, 0x00#8]
      [(0xD5#8, 0x00#8)] 0x0103#16 = true ∧
    -- S-TM-4
    gives (given [(0x00#8, 0x2B#8), (0x01#8, 0x02#8), (0x02#8, 0x23#8), (0xC0#8, 0xC7#8), (0xC1#8, 0x02#8), (0xC2#8, 0x18#8)])
      [0x75#8, 0x01#8, 0x00#8]
      [(0xD5#8, 0x00#8)] 0x0103#16 = true ∧
    -- S-TM-5
    gives (given [(0x00#8, 0x2B#8), (0x01#8, 0x02#8), (0x02#8, 0x23#8), (0xC0#8, 0xC7#8), (0xC1#8, 0x02#8), (0xC2#8, 0x18#8)])
      [0x76#8, 0x00#8, 0x54#8]
      [(0xD5#8, 0x40#8)] 0x0103#16 = true := by
  decide

theorem test_xor_source :
    -- S-XOR-1
    gives (given [(0x00#8, 0x2B#8), (0x01#8, 0x02#8), (0x02#8, 0x23#8), (0xC0#8, 0xC7#8), (0xC1#8, 0x02#8), (0xC2#8, 0x18#8)])
      [0xB2#8, 0x01#8]
      [(0xC0#8, 0xC5#8), (0xD5#8, 0x20#8)] 0x0102#16 = true ∧
    -- S-XOR-2
    gives (given [(0x00#8, 0x2B#8), (0x01#8, 0x02#8), (0x02#8, 0x23#8), (0xC0#8, 0xC7#8), (0xC1#8, 0x02#8), (0xC2#8, 0x18#8)])
      [0xB3#8, 0x01#8]
      [(0xC0#8, 0xE4#8), (0xD5#8, 0x20#8)] 0x0102#16 = true ∧
    -- S-XOR-3
    gives (given [(0x00#8, 0x2B#8), (0x01#8, 0x02#8), (0x02#8, 0x23#8), (0xC0#8, 0xC7#8), (0xC1#8, 0x02#8), (0xC2#8, 0x18#8)])
      [0xB4#8, 0x01#8, 0x00#8]
      [(0x00#8, 0x29#8), (0xD5#8, 0x00#8)] 0x0103#16 = true ∧
    -- S-XOR-4
    gives (given [(0x00#8, 0x2B#8), (0x01#8, 0x02#8), (0x02#8, 0x23#8), (0xC0#8, 0xC7#8), (0xC1#8, 0x02#8), (0xC2#8, 0x18#8)])
      [0xB5#8, 0x01#8, 0x00#8]
      [(0x00#8, 0x08#8), (0xD5#8, 0x00#8)] 0x0103#16 = true ∧
    -- S-XOR-5
    gives (given [(0x00#8, 0x2B#8), (0x01#8, 0x02#8), (0x02#8, 0x23#8), (0xC0#8, 0xC7#8), (0xC1#8, 0x02#8), (0xC2#8, 0x18#8)])
      [0xB6#8, 0x00#8, 0x54#8]
      [(0x00#8, 0x7F#8), (0xD5#8, 0x00#8)] 0x0103#16 = true := by
  decide

theorem test_clr_corner :
    -- V-LD-1
    gives (given [(0x10#8, 0x10#8)]) [0xB1#8, 0x10#8]
      [(0x10#8, 0x00#8)] 0x0102#16 = true ∧
    -- V-LD-2
    gives (given [(0xD5#8, 0xF0#8)]) [0xB0#8, 0xD5#8]
      [(0xD5#8, 0x00#8)] 0x0102#16 = true := by
  decide

theorem test_ld_corner :
    -- V-LD-3
    gives (given []) [0xE6#8, 0xD5#8, 0xF0#8]
      [(0xD5#8, 0xF0#8)] 0x0103#16 = true ∧
    -- V-LD-4
    gives (given [(0xC1#8, 0x5A#8)]) [0xE4#8, 0xC1#8, 0xC2#8]
      [(0xC2#8, 0x5A#8)] 0x0103#16 = true ∧
    -- V-LD-5
    gives (given [(0xC0#8, 0xC3#8), (0xC3#8, 0x77#8)]) [0xC7#8, 0x10#8]
      [(0xC1#8, 0x77#8)] 0x0102#16 = true := by
  decide

theorem test_ldc_corner :
    -- V-LD-8
    gives { given [(0xC4#8, 0x00#8), (0xC5#8, 0x61#8)] with pm := [(0x60, 0x3C#8)] }
      [0xE7#8, 0x04#8, 0xFF#8]
      [(0xC0#8, 0x3C#8)] 0x0103#16 = true ∧
    -- V-LD-10
    gives { given [(0xC2#8, 0xFF#8), (0xC3#8, 0xFF#8)] with pm := [(0x1, 0x21#8)] }
      [0xA7#8, 0x02#8, 0x02#8, 0x00#8]
      [(0xC0#8, 0x21#8)] 0x0104#16 = true ∧
    -- V-LD-11
    stops (given [(0xC2#8, 0x20#8), (0xC3#8, 0x00#8)]) [0xC3#8, 0x02#8] (· matches .addressOutOfRange _) = true := by
  decide

theorem test_lde_corner :
    -- V-LD-9
    gives { given [(0xC0#8, 0x00#8), (0xC1#8, 0x10#8)] with dm := [(0x12, 0x6E#8)] }
      [0xE7#8, 0x21#8, 0x02#8]
      [(0xC2#8, 0x6E#8)] 0x0103#16 = true ∧
    -- V-LD-12
    stops { given [(0xC2#8, 0x00#8), (0xC3#8, 0x10#8)] with cfg := { Config.default with dmSize := 0 } }
      [0xC3#8, 0x03#8] (· matches .addressOutOfRange _) = true := by
  decide

theorem test_ldci_corner :
    -- V-LD-14
    gives { given [(0xC6#8, 0x10#8), (0xC7#8, 0xFF#8)] with pm := [(0x10FF, 0x01#8)] }
      [0xE3#8, 0x86#8]
      [(0xC6#8, 0x11#8), (0xC7#8, 0x00#8), (0xC8#8, 0x01#8)] 0x0102#16 = true ∧
    -- V-LD-17
    stops { given [(0xC6#8, 0x10#8), (0xC7#8, 0x33#8)] with pm := [(0x1033, 0xCD#8)] }
      [0xE3#8, 0x66#8] (· == .unpredictable) = true := by
  decide

theorem test_ldcd_corner :
    -- V-LD-15
    gives { given [(0xC6#8, 0x10#8), (0xC7#8, 0x00#8)] with pm := [(0x1000, 0x02#8)] }
      [0xE2#8, 0x86#8]
      [(0xC6#8, 0x0F#8), (0xC7#8, 0xFF#8), (0xC8#8, 0x02#8)] 0x0102#16 = true ∧
    -- V-LD-18
    stops { given [(0xC6#8, 0x10#8), (0xC7#8, 0x33#8)] with pm := [(0x1033, 0xCD#8)] }
      [0xE2#8, 0x76#8] (· == .unpredictable) = true := by
  decide

theorem test_lded_corner :
    -- V-LD-16
    gives { given [(0xC6#8, 0x00#8), (0xC7#8, 0x00#8)] with dm := [(0x0, 0x03#8)] }
      [0xE2#8, 0x87#8]
      [(0xC6#8, 0xFF#8), (0xC7#8, 0xFF#8), (0xC8#8, 0x03#8)] 0x0102#16 = true := by
  decide

theorem test_pop_corner :
    -- V-LD-19
    gives (given [(0xD9#8, 0xFF#8), (0xFF#8, 0x12#8)]) [0x50#8, 0x20#8]
      [(0x20#8, 0x12#8), (0xD9#8, 0x00#8)] 0x0102#16 = true ∧
    -- V-LD-21
    gives (given [(0xBF#8, 0xA0#8), (0xD9#8, 0xBF#8)]) [0x50#8, 0xD5#8]
      [(0xD5#8, 0xA0#8), (0xD9#8, 0xC0#8)] 0x0102#16 = true ∧
    -- V-LD-23
    stops (given [(0xBF#8, 0x80#8), (0xD9#8, 0xBF#8)]) [0x50#8, 0xD9#8] (· == .unpredictable) = true := by
  decide

theorem test_push_corner :
    -- V-LD-20
    gives (given [(0x20#8, 0x34#8), (0xD9#8, 0x00#8)]) [0x70#8, 0x20#8]
      [(0xD9#8, 0xFF#8), (0xFF#8, 0x34#8)] 0x0102#16 = true ∧
    -- V-LD-24
    stops (given [(0xD9#8, 0xC0#8)]) [0x70#8, 0xD9#8] (· == .unpredictable) = true ∧
    -- V-LD-25
    stops (given [(0x30#8, 0xD9#8), (0xD9#8, 0xC0#8)]) [0x71#8, 0x30#8] (· == .unpredictable) = true := by
  decide

theorem test_adc_corner :
    -- V-AR-1
    gives (given [(0xC1#8, 0xFF#8), (0xC2#8, 0x00#8), (0xD5#8, 0x80#8)])
      [0x12#8, 0x12#8]
      [(0xC1#8, 0x00#8), (0xD5#8, 0xC0#8)] 0x0102#16 = true ∧
    -- V-AR-2
    gives (given [(0xC1#8, 0x7F#8), (0xC2#8, 0x00#8), (0xD5#8, 0x80#8)])
      [0x12#8, 0x12#8]
      [(0xC1#8, 0x80#8), (0xD5#8, 0x30#8)] 0x0102#16 = true := by
  decide

theorem test_add_corner :
    -- V-AR-3
    gives (given [(0xC1#8, 0x80#8), (0xC2#8, 0x80#8)]) [0x02#8, 0x12#8]
      [(0xC1#8, 0x00#8), (0xD5#8, 0xD0#8)] 0x0102#16 = true ∧
    -- V-AR-4
    gives (given [(0xC1#8, 0x7F#8)]) [0x06#8, 0xC1#8, 0x01#8]
      [(0xC1#8, 0x80#8), (0xD5#8, 0x30#8)] 0x0103#16 = true ∧
    -- V-AR-5
    gives (given [(0xC1#8, 0x45#8)]) [0x02#8, 0x11#8]
      [(0xC1#8, 0x8A#8), (0xD5#8, 0x30#8)] 0x0102#16 = true := by
  decide

theorem test_sub_corner :
    -- V-AR-7
    gives (given [(0xC1#8, 0x37#8)]) [0x22#8, 0x11#8]
      [(0xC1#8, 0x00#8), (0xD5#8, 0x40#8)] 0x0102#16 = true ∧
    -- V-AR-8
    gives (given [(0xC1#8, 0x80#8)]) [0x26#8, 0xC1#8, 0x01#8]
      [(0xC1#8, 0x7F#8), (0xD5#8, 0x10#8)] 0x0103#16 = true ∧
    -- V-AR-9
    gives (given [(0xC1#8, 0x00#8)]) [0x26#8, 0xC1#8, 0x01#8]
      [(0xC1#8, 0xFF#8), (0xD5#8, 0xA0#8)] 0x0103#16 = true := by
  decide

theorem test_sbc_corner :
    -- V-AR-10
    gives (given [(0xC1#8, 0x00#8), (0xC2#8, 0x00#8), (0xD5#8, 0x80#8)])
      [0x32#8, 0x12#8]
      [(0xC1#8, 0xFF#8), (0xD5#8, 0xA0#8)] 0x0102#16 = true ∧
    -- V-AR-11
    gives (given [(0xC1#8, 0x05#8), (0xC2#8, 0x05#8), (0xD5#8, 0x80#8)])
      [0x32#8, 0x12#8]
      [(0xC1#8, 0xFF#8), (0xD5#8, 0xA0#8)] 0x0102#16 = true ∧
    -- V-AR-12
    gives (given [(0xC1#8, 0x05#8), (0xC2#8, 0x05#8)]) [0x32#8, 0x12#8]
      [(0xC1#8, 0x00#8), (0xD5#8, 0x40#8)] 0x0102#16 = true := by
  decide

theorem test_cp_corner :
    -- V-AR-14
    gives (given [(0xC1#8, 0x80#8), (0xC2#8, 0x7F#8)]) [0xA2#8, 0x12#8]
      [(0xD5#8, 0x10#8)] 0x0102#16 = true ∧
    -- V-AR-15
    gives (given [(0xC1#8, 0x42#8)]) [0xA6#8, 0xC1#8, 0x42#8]
      [(0xD5#8, 0x40#8)] 0x0103#16 = true := by
  decide

theorem test_dec_corner :
    -- V-AR-19
    gives (given [(0x20#8, 0x80#8), (0xD5#8, 0x80#8)]) [0x00#8, 0x20#8]
      [(0x20#8, 0x7F#8), (0xD5#8, 0x90#8)] 0x0102#16 = true ∧
    -- V-AR-20
    gives (given [(0x20#8, 0x00#8)]) [0x00#8, 0x20#8]
      [(0x20#8, 0xFF#8), (0xD5#8, 0x20#8)] 0x0102#16 = true ∧
    -- V-AR-21
    gives (given [(0x20#8, 0x01#8)]) [0x00#8, 0x20#8]
      [(0x20#8, 0x00#8), (0xD5#8, 0x40#8)] 0x0102#16 = true := by
  decide

theorem test_inc_corner :
    -- V-AR-22
    gives (given [(0x20#8, 0x7F#8)]) [0x20#8, 0x20#8]
      [(0x20#8, 0x80#8), (0xD5#8, 0x30#8)] 0x0102#16 = true ∧
    -- V-AR-23
    gives (given [(0x20#8, 0xFF#8)]) [0x20#8, 0x20#8]
      [(0x20#8, 0x00#8), (0xD5#8, 0x40#8)] 0x0102#16 = true ∧
    -- V-AR-24
    gives (given [(0xCF#8, 0x0F#8)]) [0xFE#8]
      [(0xCF#8, 0x10#8), (0xD5#8, 0x00#8)] 0x0101#16 = true := by
  decide

theorem test_and_corner :
    -- V-LG-1
    gives (given [(0xC1#8, 0x80#8), (0xD5#8, 0x90#8)]) [0x52#8, 0x11#8]
      [(0xD5#8, 0xA0#8)] 0x0102#16 = true ∧
    -- V-LG-6
    stops (given []) [0x56#8, 0xD5#8, 0x0F#8] (· == .unpredictable) = true := by
  decide

theorem test_xor_corner :
    -- V-LG-2
    gives (given [(0xC1#8, 0x5A#8), (0xD5#8, 0x80#8)]) [0xB2#8, 0x11#8]
      [(0xC1#8, 0x00#8), (0xD5#8, 0xC0#8)] 0x0102#16 = true := by
  decide

theorem test_com_corner :
    -- V-LG-3
    gives (given [(0x20#8, 0xFF#8)]) [0x60#8, 0x20#8]
      [(0x20#8, 0x00#8), (0xD5#8, 0x40#8)] 0x0102#16 = true ∧
    -- V-LG-4
    gives (given [(0x20#8, 0x00#8), (0xD5#8, 0x10#8)]) [0x60#8, 0x20#8]
      [(0x20#8, 0xFF#8), (0xD5#8, 0x20#8)] 0x0102#16 = true ∧
    -- V-LG-7
    stops (given [(0xC3#8, 0xD5#8)]) [0x61#8, 0xC3#8] (· == .unpredictable) = true := by
  decide

theorem test_or_corner :
    -- V-LG-5
    gives (given [(0x20#8, 0x00#8), (0xD5#8, 0x90#8)]) [0x46#8, 0x20#8, 0x00#8]
      [(0xD5#8, 0xC0#8)] 0x0103#16 = true ∧
    -- V-LG-8
    gives (given [(0xC1#8, 0x0F#8), (0xCD#8, 0xF0#8)]) [0x42#8, 0x1D#8]
      [(0xC1#8, 0xFF#8), (0xD5#8, 0x20#8)] 0x0102#16 = true := by
  decide

theorem test_jp_corner :
    -- V-PC-2
    gives (given [(0xD5#8, 0xF0#8)]) [0x0D#8, 0x12#8, 0x34#8]
      [] 0x0103#16 = true ∧
    -- V-PC-3
    gives (given []) [0x8D#8, 0x12#8, 0x34#8]
      [] 0x1234#16 = true ∧
    -- V-PC-4
    gives (given []) [0x6D#8, 0x12#8, 0x34#8]
      [] 0x0103#16 = true := by
  decide

theorem test_jr_corner :
    -- V-PC-5
    gives (given []) [0x8B#8, 0xFE#8]
      [] 0x0100#16 = true ∧
    -- V-PC-6
    gives { given [] with pc := 0x0200#16 }
      [0x8B#8, 0x80#8]
      [] 0x0182#16 = true ∧
    -- V-PC-8
    gives { given [] with pc := 0x0200#16 }
      [0x8B#8, 0x7F#8]
      [] 0x0281#16 = true := by
  decide

theorem test_iret_corner :
    -- V-PC-7
    gives { given [(0xBD#8, 0x90#8), (0xBE#8, 0x01#8), (0xBF#8, 0x23#8), (0xD9#8, 0xBD#8), (0xDF#8, 0x00#8)] with pc := 0x0185#16 }
      [0xBF#8]
      [(0xD5#8, 0x90#8), (0xD9#8, 0xC0#8), (0xDF#8, 0x04#8)] 0x0123#16 = true ∧
    -- V-PC-20
    gives (given [(0xBD#8, 0x0F#8), (0xBE#8, 0x1F#8), (0xBF#8, 0xFF#8), (0xD5#8, 0xF0#8), (0xD9#8, 0xBD#8), (0xDF#8, 0xA1#8)])
      [0xBF#8]
      [(0xD5#8, 0x0F#8), (0xD9#8, 0xC0#8), (0xDF#8, 0xA5#8)] 0x1FFF#16 = true := by
  decide

theorem test_call_corner :
    -- V-PC-14
    gives { given [(0xD9#8, 0x01#8)] with pc := 0x0150#16 }
      [0xF6#8, 0x02#8, 0x00#8]
      [(0x00#8, 0x53#8), (0xD9#8, 0xFF#8), (0xFF#8, 0x01#8)] 0x0200#16 = true ∧
    -- V-PC-15
    stops (given [(0xBE#8, 0x02#8), (0xBF#8, 0x00#8), (0xD9#8, 0xC0#8)])
      [0xF4#8, 0xBE#8] (· == .unpredictable) = true ∧
    -- V-PC-16
    stops (given [(0xD8#8, 0x02#8), (0xD9#8, 0xC0#8)]) [0xF4#8, 0xD8#8] (· == .unpredictable) = true := by
  decide

theorem test_ret_corner :
    -- V-PC-18
    gives (given [(0x40#8, 0x00#8), (0x41#8, 0x00#8), (0xD5#8, 0xF0#8), (0xD9#8, 0x40#8), (0xDF#8, 0xFB#8)])
      [0xAF#8]
      [(0xD9#8, 0x42#8)] 0x0000#16 = true := by
  decide

theorem test_tcm_corner :
    -- V-BM-1
    gives (given [(0xC0#8, 0x00#8), (0xD5#8, 0x90#8)]) [0x66#8, 0xC0#8, 0x00#8]
      [(0xD5#8, 0xC0#8)] 0x0103#16 = true ∧
    -- V-BM-2
    gives (given [(0xC0#8, 0x7F#8)]) [0x66#8, 0xC0#8, 0x80#8]
      [(0xD5#8, 0x20#8)] 0x0103#16 = true ∧
    -- V-BM-3
    gives (given [(0xC0#8, 0xFF#8)]) [0x66#8, 0xC0#8, 0xFF#8]
      [(0xD5#8, 0x40#8)] 0x0103#16 = true := by
  decide

theorem test_tm_corner :
    -- V-BM-4
    gives (given [(0xC0#8, 0x80#8)]) [0x76#8, 0xC0#8, 0x80#8]
      [(0xD5#8, 0x20#8)] 0x0103#16 = true ∧
    -- V-BM-5
    gives (given [(0xC0#8, 0x7F#8)]) [0x76#8, 0xC0#8, 0x80#8]
      [(0xD5#8, 0x40#8)] 0x0103#16 = true ∧
    -- V-BM-7
    gives (given [(0xC0#8, 0xAA#8), (0xC1#8, 0x55#8)]) [0x72#8, 0x01#8]
      [(0xD5#8, 0x40#8)] 0x0102#16 = true := by
  decide

theorem test_rl_corner :
    -- V-RS-1
    gives (given [(0x20#8, 0x00#8), (0xD5#8, 0x80#8)]) [0x90#8, 0x20#8]
      [(0xD5#8, 0x40#8)] 0x0102#16 = true ∧
    -- V-RS-2
    gives (given [(0x20#8, 0xFF#8)]) [0x90#8, 0x20#8]
      [(0xD5#8, 0xA0#8)] 0x0102#16 = true ∧
    -- V-RS-3
    gives (given [(0x20#8, 0x80#8)]) [0x90#8, 0x20#8]
      [(0x20#8, 0x01#8), (0xD5#8, 0x90#8)] 0x0102#16 = true := by
  decide

theorem test_rlc_corner :
    -- V-RS-4
    gives (given [(0x20#8, 0x80#8)]) [0x10#8, 0x20#8]
      [(0x20#8, 0x00#8), (0xD5#8, 0xD0#8)] 0x0102#16 = true ∧
    -- V-RS-5
    gives (given [(0x20#8, 0x00#8), (0xD5#8, 0x80#8)]) [0x10#8, 0x20#8]
      [(0x20#8, 0x01#8), (0xD5#8, 0x00#8)] 0x0102#16 = true := by
  decide

theorem test_rr_corner :
    -- V-RS-6
    gives (given [(0x20#8, 0x01#8)]) [0xE0#8, 0x20#8]
      [(0x20#8, 0x80#8), (0xD5#8, 0xB0#8)] 0x0102#16 = true := by
  decide

theorem test_rrc_corner :
    -- V-RS-7
    gives (given [(0x20#8, 0x01#8)]) [0xC0#8, 0x20#8]
      [(0x20#8, 0x00#8), (0xD5#8, 0xC0#8)] 0x0102#16 = true ∧
    -- V-RS-8
    gives (given [(0x20#8, 0x00#8), (0xD5#8, 0x80#8)]) [0xC0#8, 0x20#8]
      [(0x20#8, 0x80#8), (0xD5#8, 0x30#8)] 0x0102#16 = true := by
  decide

theorem test_sra_corner :
    -- V-RS-9
    gives (given [(0x20#8, 0xFF#8), (0xD5#8, 0x10#8)]) [0xD0#8, 0x20#8]
      [(0xD5#8, 0xA0#8)] 0x0102#16 = true ∧
    -- V-RS-10
    gives (given [(0x20#8, 0x01#8)]) [0xD0#8, 0x20#8]
      [(0x20#8, 0x00#8), (0xD5#8, 0xC0#8)] 0x0102#16 = true ∧
    -- V-RS-11
    gives (given [(0x20#8, 0x80#8)]) [0xD0#8, 0x20#8]
      [(0x20#8, 0xC0#8), (0xD5#8, 0x20#8)] 0x0102#16 = true := by
  decide

theorem test_ccf_corner :
    -- V-CC-1
    gives (given [(0xD5#8, 0xF0#8)]) [0xEF#8]
      [(0xD5#8, 0x70#8)] 0x0101#16 = true := by
  decide

theorem test_scf_corner :
    -- V-CC-2
    gives (given [(0xD5#8, 0x7F#8)]) [0xDF#8]
      [(0xD5#8, 0xFF#8)] 0x0101#16 = true := by
  decide

theorem test_rcf_corner :
    -- V-CC-3
    gives (given [(0xD5#8, 0x0F#8)]) [0xCF#8]
      [(0xD5#8, 0x0F#8)] 0x0101#16 = true := by
  decide

theorem test_di_corner :
    -- V-CC-4
    gives (given [(0xDF#8, 0xFF#8)]) [0x8F#8]
      [(0xDF#8, 0xFB#8)] 0x0101#16 = true ∧
    -- V-CC-6
    gives (given [(0xDF#8, 0x00#8)]) [0x8F#8]
      [] 0x0101#16 = true := by
  decide

theorem test_ei_corner :
    -- V-CC-5
    gives (given [(0xDF#8, 0xFB#8)]) [0x9F#8]
      [(0xDF#8, 0xFF#8)] 0x0101#16 = true := by
  decide

theorem test_nop_corner :
    -- V-CC-7
    gives (given [(0xD5#8, 0xA0#8), (0xDF#8, 0x04#8)]) [0xFF#8]
      [] 0x0101#16 = true := by
  decide

theorem test_stop_corner :
    -- V-CC-8
    gives { given [(0xE0#8, 0xA5#8)] with cfg := { Config.default with stopconAddr := some 0xE0#8 } }
      [0x7F#8]
      [] 0x0101#16 (fun t => t.runState == .stop) = true ∧
    -- V-CC-9
    gives { given [(0xD5#8, 0x50#8), (0xDF#8, 0x04#8), (0xE0#8, 0x00#8)] with pc := 0x0456#16, cfg := { Config.default with stopconAddr := some 0xE0#8 } }
      [0x7F#8]
      [] 0x0100#16 = true ∧
    -- V-CC-10
    stops (given []) [0x7F#8] (· == .parameterOpen) = true := by
  decide

theorem test_idle_corner :
    -- V-CC-11
    gives (given [(0xDF#8, 0x04#8)]) [0x6F#8]
      [] 0x0101#16 (fun t => t.runState == .idle) = true := by
  decide

/-! ### Interrupts, power states, reset, undefined opcodes (vectors V-EX of 95_test_vectors) -/

/-- The service routine's address stands at the vector, as the vectors have it. -/
def vectored (regs : List (Byte × Byte)) (pc : Addr) (pending : List Request) : State :=
  { given regs with pm := [(0, 0x01#8), (1, 0x80#8), (0x100, 0x9F#8)], pc := pc, pending := pending }

/-- V-EX-1 but for the saved FLAGS byte, whose low nibble is free. -/
theorem test_interrupt_entry :
    (match step (vectored [(0xD9#8, 0xC0#8), (0xD5#8, 0x90#8), (0xDF#8, 0x04#8)] 0x0123#16 [⟨0, false⟩]) with
      | .next t => t.reg 0xBE#8 == 0x01#8 && t.reg 0xBF#8 == 0x23#8 && t.sp == 0xBD#8 && t.reg 0xDF#8 == 0x00#8
          && t.pc == 0x0180#16 && t.flags == ⟨true, false, false, true⟩
      | _ => false) = true := by decide

/-- V-EX-2 and V-EX-3: a masked request stays pending, and EI runs; the interrupt comes at the next boundary. -/
theorem test_interrupt_masked :
    (match step (vectored [(0xD9#8, 0xC0#8)] 0x0100#16 [⟨0, false⟩]) with
      | .next t => t.pc == 0x0101#16 && t.interruptsEnabled && t.pending == [⟨0, false⟩]
      | _ => false) = true := by decide

/-- V-EX-4 and V-EX-8: Idle mode and Stop mode released, the interrupt taken. -/
theorem test_release_enabled :
    (match step { vectored [(0xD9#8, 0xC0#8), (0xDF#8, 0x04#8)] 0x0101#16 [⟨0, false⟩] with runState := .idle } with
      | .next t => t.runState == .running && t.reg 0xBF#8 == 0x01#8 && t.pc == 0x0180#16
      | _ => false) = true ∧
    (match step { vectored [(0xD9#8, 0xC0#8), (0xDF#8, 0x04#8)] 0x0101#16 [⟨0, true⟩] with runState := .stop } with
      | .next t => t.runState == .running && t.reg 0xBF#8 == 0x01#8 && t.pc == 0x0180#16
      | _ => false) = true := by decide

/-- V-EX-5, V-EX-6, V-EX-7: a masked request with either value of the parameter, and a request that is not
external in Stop mode. -/
theorem test_release_masked :
    (match step { vectored [] 0x0101#16 [⟨0, false⟩] with
        runState := .idle, cfg := { Config.default with idleWakeWhenMasked := true } } with
      | .next t => t.runState == .running && t.pc == 0x0101#16
      | _ => false) = true ∧
    (match step { vectored [] 0x0101#16 [⟨0, false⟩] with runState := .idle } with
      | .next t => t.runState == .idle && t.pc == 0x0101#16
      | _ => false) = true ∧
    (match step { vectored [(0xDF#8, 0x04#8)] 0x0101#16 [⟨0, false⟩] with runState := .stop } with
      | .next t => t.runState == .stop && t.pc == 0x0101#16
      | _ => false) = true := by decide

/-- V-EX-9, as far as the spec gives values. -/
theorem test_reset :
    (match step { vectored [(0xDF#8, 0x04#8)] 0x0101#16 [⟨0, true⟩] with
        runState := .stop, resetAsserted := true } with
      | .next t => t.runState == .running && t.pc == 0x0100#16 && t.pending == [] && t.pmByte 0 == 0x01#8
      | _ => false) = true := by decide

/-- V-EX-10 and V-EX-11. -/
theorem test_bad_fetch :
    stops (given []) [0x07#8] (· == .illegalOpcode 0x07#8) = true ∧
    stops (given []) [0x5F#8] (· == .illegalOpcode 0x5F#8) = true ∧
    stops { given [] with pc := 0x2000#16 } [0xFF#8] (· == .addressOutOfRange 0x2000#16) = true := by decide

/-- The host's placing of a table word runs it first after reset, and the decoder reads it so: ADD R1,R2 (02 12)
and LD 05H,#12H (E6 05 12), byte 1 in the top bits (log 26). -/
theorem test_withFetchWord :
    decodeTableWord 16 0x0212 = some (.add_r_r 1#4 2#4) ∧
    decodeTableWord 24 0xE60512 = some (.ld_reg_im 0x05#8 0x12#8) ∧
    (match step (State.reset.withFetchWord 24 0xE60512) with
      | .next t => t.reg 0x05#8 == 0x12#8 && t.pc == 0x0103#16
      | _ => false) = true := by decide


/-! ### Spelling and cycle counts -/

/-- Source examples of 30_encoding R73, and JR to itself (70_reset_and_hazards R218). -/
theorem test_asm :
    asm 0#16 (.adc_r_ir 1#4 2#4) = "ADC R1,@R2" ∧ asm 0#16 (.adc_reg_im 0x01#8 0x11#8) = "ADC 01H,#11H" ∧
      asm 0#16 (.ldc_r_xl 0#4 0x1000#16 1#3) = "LDC R0,#1000H[RR2]" ∧ asm 0#16 (.jp_ipair 0x00#8) = "JP @00H" ∧
      asm 0#16 (.ld_reg_im 0xFB#8 0xA5#8) = "LD 0FBH,#0A5H" ∧
      asm 0x0100#16 (.jr_cc_ra .ugt 0xFE#8) = "JR UGT,0100H" := by decide

/-- Rows of 70_reset_and_hazards R217. -/
theorem test_cycles :
    cycles (.add_r_ir 1#4 2#4) = ⟨6, true⟩ ∧ cycles (.cp_r_r 1#4 2#4) = ⟨4, false⟩ ∧
      cycles (.call_da 0x1000#16) = ⟨14, true⟩ ∧ cycles (.push_ireg 0#8) = ⟨8, false⟩ := by decide


/-! ### Witnesses: for each statement with hypotheses, a concrete state and operands that meet all of them,
clause by clause, at the ends of their ranges -/

/-- A CPU in the middle of a program: SP at C0H, some registers loaded. -/
def busy : State :=
  given [(0xD9#8, 0xC0#8), (0x00#8, 0x01#8), (0x01#8, 0x20#8), (0x02#8, 0x03#8), (0x03#8, 0xFF#8),
    (0xC1#8, 0x12#8), (0xC2#8, 0x03#8), (0xC4#8, 0x1F#8), (0xC5#8, 0xFF#8), (0xC6#8, 0x20#8)]

/-- `busy` with 10H and 13H missing, 11H a platform register, program memory writable and STOPCON at E0H. -/
def odd : State :=
  { busy with cfg := { Config.default with
      rfMap := ((Config.default.rfMap.set 0x10 .absent).set 0x11 .platform).set 0x13 .absent
      pmWritable := true
      stopconAddr := some 0xE0#8 } }

/-- `busy` with the working registers at CAH, so that R11 is FLAGS and R15 is SP. -/
def overlapped : State := { busy with cfg := { Config.default with wrBase := 0xCA#8 } }

/-- `busy` with an external request pending and interrupts enabled. -/
def requested : State :=
  { (busy.setReg 0xDF#8 0x04#8) with pending := [⟨1, true⟩], pm := [(0, 0x01#8), (1, 0x80#8)] }

theorem allImplemented_of (s : State) (ws : List (Byte × Byte))
    (h : (ws.all fun w => s.classOf w.1 != .absent) = true) : AllImplemented s ws :=
  fun w hw => bne_iff_ne.mp (List.all_eq_true.mp h w hw)

theorem firstMissing_of (s : State) (ws : List (Byte × Byte)) (n : Nat) (a : Byte)
    (h : ((ws.take n).all fun w => s.classOf w.1 != .absent) = true) (ha : ws[n]?.map (·.1) = some a)
    (hc : s.classOf a = .absent) : FirstMissing s ws a := by
  obtain ⟨w, hw, rfl⟩ := Option.map_eq_some_iff.mp ha
  obtain ⟨hn, rfl⟩ := List.getElem?_eq_some_iff.mp hw
  exact ⟨ws.take n, ws[n].2, ws.drop (n + 1), by rw [Prod.mk.eta, ← List.drop_eq_getElem_cons hn, List.take_append_drop],
    allImplemented_of s _ h, hc⟩

theorem witness_DecodeAfterEncode :
    (Instr.ldc_r_xl 0xF#4 0xFFFF#16 7#3).wf = true ∧ (Instr.lde_xl_r 0#16 1#3 0#4).wf = true ∧
      Instr.ret.wf = true := by decide

theorem witness_EncodeAfterDecode :
    decode [0xB7#8, 0xF1#8, 0xFF#8, 0x1F#8, 0x00#8] = .instr (.lde_da_r 0x1FFF#16 0xF#4) [0x00#8] := by decide

theorem witness_FirstByteGivesLength :
    0x40#8 ∈ undefinedOpcodes ∧ 0x5F#8 ∈ undefinedOpcodes ∧ 0x6F#8 ∉ undefinedOpcodes ∧
      decode [0xA7#8, 0#8, 0#8] = .truncated ∧ decode [0xFF#8] = .instr .nop [] ∧
      decode [0xA7#8, 0#8, 0#8, 0#8] = .instr (.ldc_r_da 0#4 0#16) [] := by decide

theorem witness_StepRunsDecoded :
    (Instr.add_r_r 1#4 2#4).wf = true ∧ FetchesNext (busy.loadImage 0x100#16 [0x02#8, 0x12#8]) ∧
      BytesAtPc (busy.loadImage 0x100#16 [0x02#8, 0x12#8]) (encode (.add_r_r 1#4 2#4)) := by
  refine ⟨rfl, ⟨rfl, rfl, .inr rfl⟩, fun k h => ?_⟩
  have h : k < 2 := h
  interval_cases k <;> exact ⟨by decide, by decide, rfl⟩

/-- The last byte of program memory. -/
theorem witness_StepRunsDecoded_end :
    FetchesNext ({ busy with pc := 0x1FFF#16 }.loadImage 0x1FFF#16 [0xAF#8]) ∧
      BytesAtPc ({ busy with pc := 0x1FFF#16 }.loadImage 0x1FFF#16 [0xAF#8]) (encode .ret) := by
  refine ⟨⟨rfl, rfl, .inr rfl⟩, fun k h => ?_⟩
  have h : k < 1 := h
  interval_cases k
  exact ⟨by decide, by decide, rfl⟩

/-- A two-byte instruction whose second byte lies at PM_SIZE, and one whose first byte does. -/
theorem witness_StepStopsAtBadFetch_range :
    (FetchesNext ({ busy with pc := 0x1FFF#16 }.loadImage 0x1FFF#16 [0x02#8]) ∧
      1 < (encode (.add_r_r 1#4 2#4)).length ∧
      Fetchable ({ busy with pc := 0x1FFF#16 }.loadImage 0x1FFF#16 [0x02#8]) 0x1FFF#16 0x02#8 ∧
      busy.cfg.pmSize.val ≤ (0x1FFF#16 + 1#16).toNat) ∧
    FetchesNext { busy with pc := 0x2000#16 } ∧ busy.cfg.pmSize.val ≤ (0x2000#16).toNat := by
  exact ⟨⟨⟨rfl, rfl, .inr rfl⟩, by decide, ⟨by decide, by decide, by decide⟩, by decide⟩,
    ⟨rfl, rfl, .inr rfl⟩, by decide⟩

theorem witness_StepStopsAtBadFetch_modified :
    let s := { busy.loadImage 0x100#16 [0x02#8, 0x12#8] with pmWritten := [0x101] }
    FetchesNext s ∧ Fetchable s 0x100#16 0x02#8 ∧ (0x101#16).toNat < s.cfg.pmSize.val ∧
      (0x101#16).toNat ∈ s.pmWritten :=
  ⟨⟨rfl, rfl, .inr rfl⟩, ⟨by decide, by decide, by decide⟩, by decide, by decide⟩

theorem witness_StepStopsAtBadFetch_opcode :
    FetchesNext (busy.loadImage 0x100#16 [0x40#8]) ∧
      Fetchable (busy.loadImage 0x100#16 [0x40#8]) 0x100#16 0x40#8 ∧ 0x40#8 ∈ undefinedOpcodes :=
  ⟨⟨rfl, rfl, .inr rfl⟩, ⟨by decide, by decide, by decide⟩, by decide⟩

theorem witness_RegisterReadByClass :
    odd.classOf 0x10#8 = .absent ∧ odd.classOf 0x11#8 = .platform ∧ odd.classOf 0x00#8 = .plain ∧
      odd.classOf spAddr = .control ∧ odd.classOf 0xFF#8 = .plain := by decide

theorem witness_RegisterReadBack :
    odd.classOf 0x10#8 = .absent ∧ odd.classOf 0x11#8 = .platform ∧ odd.classOf flagsAddr = .control ∧
      odd.classOf 0xE0#8 = .control := by decide

theorem witness_WorkingRegistersAndAddresses :
    busy.wr 0xF#4 = 0xCF#8 ∧ busy.addrIrr 2#3 = .ok 0x1FFF#16 ∧ busy.addrXs 0xFF#8 2#3 = .ok 0x1FFE#16 := by
  decide

/-- Operands for ADD, ADC, SUB, SBC, AND, OR and XOR, in every form, and in a platform register. -/
theorem witness_TwoOperand :
    ((Form2.rr 1#4 2#4).dst busy ≠ flagsAddr ∧ (Form2.rr 1#4 2#4).src busy = .ok 0x03#8 ∧
      busy.read 2 ((Form2.rr 1#4 2#4).dst busy) = .ok 0x12#8) ∧
    ((Form2.rir 1#4 2#4).src busy = .ok 0xFF#8 ∧ (Form2.rgrg 0x01#8 0x02#8).src busy = .ok 0x03#8 ∧
      (Form2.rgir 0x01#8 0x02#8).src busy = .ok 0xFF#8 ∧ (Form2.rgim 0x01#8 0x80#8).src busy = .ok 0x80#8 ∧
      busy.read 2 0x01#8 = .ok 0x20#8) ∧
    ∃ d, odd.read 2 0x11#8 = .ok d := by
  refine ⟨by decide, by decide, ⟨_, rfl⟩⟩

theorem witness_AddResult : (Form2.rgim 0xFF#8 0xFF#8).dst busy ≠ flagsAddr ∧
    (Form2.rgim 0xFF#8 0xFF#8).src busy = .ok 0xFF#8 ∧ busy.read 2 0xFF#8 = .ok 0x00#8 := by decide
theorem witness_AdcResult : (Form2.rr 0#4 0xF#4).dst busy ≠ flagsAddr ∧
    (Form2.rr 0#4 0xF#4).src busy = .ok 0x00#8 ∧ busy.read 2 (busy.wr 0#4) = .ok 0x00#8 := by decide
theorem witness_SubResult : (Form2.rgir 0x00#8 0x00#8).dst busy ≠ flagsAddr ∧
    (Form2.rgir 0x00#8 0x00#8).src busy = .ok 0x20#8 ∧ busy.read 2 0x00#8 = .ok 0x01#8 := by decide
theorem witness_SbcResult : (Form2.rir 1#4 2#4).dst busy ≠ flagsAddr ∧
    (Form2.rir 1#4 2#4).src busy = .ok 0xFF#8 ∧ busy.read 2 (busy.wr 1#4) = .ok 0x12#8 := by decide
theorem witness_LogicResult : (Form2.rgrg 0xD4#8 0xD9#8).dst busy ≠ flagsAddr ∧
    (Form2.rgrg 0xD4#8 0xD9#8).src busy = .ok 0xC0#8 ∧ busy.read 2 0xD4#8 = .ok 0x00#8 := by decide

/-- FLAGS as the destination of a test, and an ordinary one. -/
theorem witness_CpResult :
    ((Form2.rgim flagsAddr 0x80#8).src busy = .ok 0x80#8 ∧ ∃ d, busy.read 2 flagsAddr = .ok d) ∧
    (Form2.rr 1#4 2#4).src busy = .ok 0x03#8 ∧ busy.read 2 (busy.wr 1#4) = .ok 0x12#8 :=
  ⟨⟨rfl, _, rfl⟩, by decide⟩
theorem witness_BitTestResult :
    (Form2.rgir 0x03#8 0x02#8).src busy = .ok 0xFF#8 ∧ busy.read 2 0x03#8 = .ok 0xFF#8 := by decide
theorem witness_CompareConditions :
    (Form2.rgim 0x03#8 0x7F#8).src busy = .ok 0x7F#8 ∧ busy.read 2 0x03#8 = .ok 0xFF#8 := by decide

/-- Operands for INC, DEC, COM, RL, RLC, RR, RRC and SRA, in both forms, and for INC r. -/
theorem witness_IncDecResult :
    ((Form1.rg 0x03#8).loc busy = .ok 0x03#8 ∧ 0x03#8 ≠ flagsAddr ∧ busy.read 2 0x03#8 = .ok 0xFF#8) ∧
    ((Form1.ir 0x02#8).loc busy = .ok 0x03#8) ∧
    busy.wr 0xF#4 ≠ flagsAddr ∧ busy.read 2 (busy.wr 0xF#4) = .ok 0x00#8 := by decide
theorem witness_ComResult :
    (Form1.ir 0xC2#8).loc busy = .ok 0x03#8 ∧ busy.read 2 0x03#8 = .ok 0xFF#8 := by decide
theorem witness_RotateResult :
    (Form1.rg 0x01#8).loc busy = .ok 0x01#8 ∧ 0x01#8 ≠ flagsAddr ∧ busy.read 2 0x01#8 = .ok 0x20#8 := by decide
theorem witness_RotateThroughCarryResult :
    (Form1.ir 0x00#8).loc busy = .ok 0x01#8 ∧ 0x01#8 ≠ flagsAddr ∧ busy.read 2 0x01#8 = .ok 0x20#8 := by decide
theorem witness_SraResult :
    (Form1.rg 0x03#8).loc busy = .ok 0x03#8 ∧ 0x03#8 ≠ flagsAddr ∧ busy.read 2 0x03#8 = .ok 0xFF#8 := by decide

theorem witness_FlagWritersStopOnFlags :
    (Form2.rgim flagsAddr 0x00#8).dst busy = flagsAddr ∧ (Form2.rr 0xB#4 0#4).dst overlapped = flagsAddr ∧
      (Form1.rg flagsAddr).loc busy = .ok flagsAddr ∧ overlapped.wr 0xB#4 = flagsAddr ∧
      (Form1.ir 0x00#8).loc (busy.setReg 0x00#8 flagsAddr) = .ok flagsAddr := by decide

theorem witness_MissingLocationsStop :
    (Form2.rgrg 0x01#8 0x10#8).src odd = .error (.unimplementedRegister 0x10#8) ∧
      ((Form2.rgim 0x10#8 0x01#8).src odd = .ok 0x01#8 ∧
        odd.read 2 0x10#8 = .error (.unimplementedRegister 0x10#8) ∧ 0x10#8 ≠ flagsAddr) ∧
      (Form1.ir 0x10#8).loc odd = .error (.unimplementedRegister 0x10#8) ∧
      ((Form1.rg 0x10#8).loc odd = .ok 0x10#8 ∧ odd.classOf 0x10#8 = .absent ∧ odd.read 1 odd.sp = .ok 0x00#8) ∧
      (LdForm.irim 0x10#8 0x00#8).dst odd = .error (.unimplementedRegister 0x10#8) ∧
      ((LdForm.rrg 0#4 0x10#8).dst odd = .ok 0xC0#8 ∧
        (LdForm.rrg 0#4 0x10#8).src odd = .error (.unimplementedRegister 0x10#8)) ∧
      (LdForm.rgim 0x10#8 0x01#8).dst odd = .ok 0x10#8 ∧ (LdForm.rgim 0x10#8 0x01#8).src odd = .ok 0x01#8 := by
  decide

/-- SP just above the missing location, and on it, for PUSH and POP. -/
theorem witness_MissingStackStops_push_pop :
    ((Form1.rg 0x01#8).loc (odd.setReg spAddr 0x11#8) = .ok 0x01#8 ∧ 0x01#8 ≠ spAddr ∧
      (odd.setReg spAddr 0x11#8).read 1 0x01#8 = .ok 0x20#8 ∧
      (odd.setReg spAddr 0x11#8).classOf ((odd.setReg spAddr 0x11#8).sp - 1#8) = .absent) ∧
    (odd.setReg spAddr 0x10#8).classOf (odd.setReg spAddr 0x10#8).sp = .absent := by decide

/-- The first and the second push of CALL, direct (three bytes) and through the pair at 00H (two bytes). -/
theorem witness_MissingStackStops_call :
    (∀ n : Nat, n = 3 ∨ n = 2 →
      (FirstMissing (odd.setReg spAddr 0x11#8) (pushes (odd.setReg spAddr 0x11#8) []
        [((odd.setReg spAddr 0x11#8).pc + BitVec.ofNat 16 n).extractLsb' 0 8,
          ((odd.setReg spAddr 0x11#8).pc + BitVec.ofNat 16 n).extractLsb' 8 8]) 0x10#8 ∧
      FirstMissing (odd.setReg spAddr 0x12#8) (pushes (odd.setReg spAddr 0x12#8) []
        [((odd.setReg spAddr 0x12#8).pc + BitVec.ofNat 16 n).extractLsb' 0 8,
          ((odd.setReg spAddr 0x12#8).pc + BitVec.ofNat 16 n).extractLsb' 8 8]) 0x10#8)) ∧
    (0x00#8).getLsbD 0 = false ∧
    (∀ b, b = 0x00#8 ∨ b = 0x00#8 + 1#8 → b ≠ spAddr ∧ b ≠ (odd.setReg spAddr 0x12#8).sp - 1#8 ∧
      b ≠ (odd.setReg spAddr 0x12#8).sp - 2#8) ∧
    (odd.setReg spAddr 0x12#8).read 0 0x00#8 = .ok 0x01#8 ∧
    (odd.setReg spAddr 0x12#8).read 1 (0x00#8 + 1#8) = .ok 0x20#8 := by
  refine ⟨?_, by decide, ?_, by decide, by decide⟩
  · rintro n (rfl | rfl) <;>
      exact ⟨firstMissing_of _ _ 1 _ (by decide) (by decide) (by decide),
        firstMissing_of _ _ 3 _ (by decide) (by decide) (by decide)⟩
  · rintro b (rfl | rfl) <;> decide

/-- The third push of an interrupt. -/
theorem witness_MissingStackStops_interrupt :
    let s := { requested.setReg spAddr 0x13#8 with cfg := odd.cfg }
    TakesInterrupt s ∧
      FirstMissing s (pushes s [] [s.pc.extractLsb' 0 8, s.pc.extractLsb' 8 8, 0#8]) 0x10#8 :=
  ⟨⟨rfl, by decide, .inl ⟨rfl, by decide⟩⟩, firstMissing_of _ _ 5 _ (by decide) (by decide) (by decide)⟩

/-- The first and the last pop of RET and of IRET. -/
theorem witness_MissingStackStops_return :
    (odd.setReg spAddr 0x10#8).classOf ((odd.setReg spAddr 0x10#8).sp + BitVec.ofNat 8 0) = .absent ∧
    ((∀ j, j < 1 → Implemented (odd.setReg spAddr 0x0F#8)
        ((odd.setReg spAddr 0x0F#8).sp + BitVec.ofNat 8 j)) ∧
      (odd.setReg spAddr 0x0F#8).classOf ((odd.setReg spAddr 0x0F#8).sp + BitVec.ofNat 8 1) = .absent) ∧
    (∀ j, j < 2 → Implemented (odd.setReg spAddr 0x0E#8)
        ((odd.setReg spAddr 0x0E#8).sp + BitVec.ofNat 8 j)) ∧
      (odd.setReg spAddr 0x0E#8).classOf ((odd.setReg spAddr 0x0E#8).sp + BitVec.ofNat 8 2) = .absent := by
  unfold Implemented; decide

/-- A pair whose high byte is missing, and one whose low byte is, for JP @ and CALL @. -/
theorem witness_MissingStackStops_pair :
    ((0x10#8).getLsbD 0 = false ∧ odd.read 0 0x10#8 = .error (.unimplementedRegister 0x10#8)) ∧
    ((0x12#8).getLsbD 0 = false ∧ odd.read 0 0x12#8 = .ok 0x00#8 ∧
      odd.read 1 (0x12#8 + 1#8) = .error (.unimplementedRegister 0x13#8)) ∧
    (∀ b, b = 0x10#8 ∨ b = 0x10#8 + 1#8 → b ≠ spAddr ∧ b ≠ odd.sp - 1#8 ∧ b ≠ odd.sp - 2#8) ∧
    ∀ b, b = 0x12#8 ∨ b = 0x12#8 + 1#8 → b ≠ spAddr ∧ b ≠ odd.sp - 1#8 ∧ b ≠ odd.sp - 2#8 := by
  refine ⟨by decide, by decide, ?_, ?_⟩ <;> rintro b (rfl | rfl) <;> decide

theorem witness_ClrResult : (Form1.rg flagsAddr).loc busy = .ok flagsAddr ∧ Implemented busy flagsAddr ∧
    (Form1.ir 0x02#8).loc busy = .ok 0x03#8 ∧ Implemented busy 0x03#8 := by
  unfold Implemented; decide
theorem witness_LdResult :
    (LdForm.xr 0xFF#8 2#4 1#4).presumedDirection = false ∧ (LdForm.xr 0xFF#8 2#4 1#4).dst busy = .ok 0x02#8 ∧
      (LdForm.xr 0xFF#8 2#4 1#4).src busy = .ok 0x12#8 ∧ Implemented busy 0x02#8 ∧
      (LdForm.rgim flagsAddr 0xF0#8).dst busy = .ok flagsAddr ∧ Implemented busy flagsAddr := by
  unfold Implemented; decide
theorem witness_LdPresumedDirection :
    ((LdForm.rgir 0x05#8 0x02#8).presumedDirection = true ∧ (LdForm.rgir 0x05#8 0x02#8).dst busy = .ok 0x05#8 ∧
      (LdForm.rgir 0x05#8 0x02#8).src busy = .ok 0xFF#8 ∧ Implemented busy 0x05#8) ∧
    (LdForm.irrg 0x02#8 0x01#8).presumedDirection = true ∧ (LdForm.irrg 0x02#8 0x01#8).dst busy = .ok 0x03#8 ∧
      (LdForm.irrg 0x02#8 0x01#8).src busy = .ok 0x20#8 ∧ Implemented busy 0x03#8 := by
  unfold Implemented; decide

/-- The last address of either memory, from a pair and direct, and the first. -/
theorem witness_MemoryLoadResult :
    (MemForm.irr 2#3).addr busy = .ok 0x1FFF#16 ∧ (0x1FFF#16).toNat < Space.program.size busy ∧
      (0x1FFF#16).toNat < Space.data.size busy ∧ (MemForm.da 0x0000#16).addr busy = .ok 0x0000#16 ∧
      (0x0000#16).toNat < Space.data.size busy := by decide
theorem witness_MemoryStoreResult :
    (MemForm.xs 0x00#8 2#3).addr odd = .ok 0x1FFF#16 ∧ odd.read 2 (odd.wr 1#4) = .ok 0x12#8 ∧
      (0x1FFF#16).toNat < Space.program.size odd ∧ odd.cfg.pmWritable = true ∧
      (MemForm.xl 0xE001#16 2#3).addr odd = .ok 0x0000#16 ∧ (0x0000#16).toNat < Space.data.size odd := by decide
theorem witness_LoadStepResult :
    busy.wr 0#4 ≠ busy.pairAddr 2#3 ∧ busy.wr 0#4 ≠ busy.pairAddr 2#3 + 1#8 ∧
      busy.addrIrr 2#3 = .ok 0x1FFF#16 ∧ (0x1FFF#16).toNat < Space.program.size busy ∧
      (0x1FFF#16).toNat < Space.data.size busy := by decide
theorem witness_MemoryAccessStops :
    ((MemForm.irr 3#3).addr busy = .ok 0x2000#16 ∧ Space.program.size busy ≤ (0x2000#16).toNat ∧
      Space.data.size busy ≤ (0x2000#16).toNat) ∧ odd.cfg.pmWritable = true ∧ busy.cfg.pmWritable = false ∧
    busy.wr 0#4 ≠ busy.pairAddr 3#3 ∧ busy.wr 0#4 ≠ busy.pairAddr 3#3 + 1#8 ∧
      busy.addrIrr 3#3 = .ok 0x2000#16 := by decide

/-- An ordinary pop, and SP at FFH; an ordinary push, SP at 00H, and one that falls on SP itself. -/
theorem witness_PopResult :
    ((Form1.rg flagsAddr).loc busy = .ok flagsAddr ∧ flagsAddr ≠ spAddr ∧ busy.read 1 busy.sp = .ok 0x00#8 ∧
      Implemented busy flagsAddr) ∧
    (busy.setReg spAddr 0xFF#8).read 1 (busy.setReg spAddr 0xFF#8).sp = .ok 0x00#8 := by
  unfold Implemented; decide
theorem witness_PushResult :
    ((Form1.ir 0x02#8).loc busy = .ok 0x03#8 ∧ 0x03#8 ≠ spAddr ∧ busy.read 1 0x03#8 = .ok 0xFF#8 ∧
      Implemented busy (busy.sp - 1#8)) ∧
    Implemented (busy.setReg spAddr 0x00#8) ((busy.setReg spAddr 0x00#8).sp - 1#8) ∧
    (busy.setReg spAddr 0xDA#8).sp - 1#8 = spAddr ∧
    Implemented (busy.setReg spAddr 0xDA#8) ((busy.setReg spAddr 0xDA#8).sp - 1#8) := by
  unfold Implemented; decide

/-- Each stop, the overlap of CALL @ at each of its three places, from below and from above. -/
theorem witness_SpecialOperandStops :
    (Form1.rg spAddr).loc busy = .ok spAddr ∧ busy.wr 4#4 = busy.pairAddr 2#3 ∧
      busy.wr 5#4 = busy.pairAddr 2#3 + 1#8 ∧ (0x01#8).getLsbD 0 = true ∧ (0xFF#8).getLsbD 0 = true ∧
      ((0xD8#8).getLsbD 0 = false ∧ 0xD8#8 + 1#8 = spAddr) ∧
      ((0xBE#8).getLsbD 0 = false ∧ 0xBE#8 = busy.sp - 2#8 ∧ 0xBE#8 + 1#8 = busy.sp - 1#8) := by decide

theorem witness_CallResult :
    AllImplemented busy (pushes busy [] [0x03#8, 0x01#8]) ∧
      AllImplemented (busy.setReg spAddr 0xDA#8) (pushes (busy.setReg spAddr 0xDA#8) [] [0x03#8, 0x01#8]) ∧
      (0x00#8).getLsbD 0 = false ∧
      (∀ b, b = 0x00#8 ∨ b = 0x00#8 + 1#8 → b ≠ spAddr ∧ b ≠ busy.sp - 1#8 ∧ b ≠ busy.sp - 2#8) ∧
      busy.read 0 0x00#8 = .ok 0x01#8 ∧ busy.read 1 (0x00#8 + 1#8) = .ok 0x20#8 := by
  refine ⟨?_, ?_, by decide, ?_, by decide, by decide⟩
  · exact allImplemented_of _ _ (by decide)
  · exact allImplemented_of _ _ (by decide)
  · rintro b (rfl | rfl) <;> decide

theorem witness_JumpIndirectResult : (0xFE#8).getLsbD 0 = false ∧ busy.read 0 0xFE#8 = .ok 0x00#8 ∧
    busy.read 1 (0xFE#8 + 1#8) = .ok 0x00#8 := by decide

/-- An ordinary return, and one whose second byte is read at SP itself. -/
theorem witness_RetResult :
    (busy.read 0 busy.sp = .ok 0x00#8 ∧
      (busy.setReg spAddr (busy.sp + 1#8)).read 1 (busy.sp + 1#8) = .ok 0x12#8) ∧
    let s := busy.setReg spAddr 0xD8#8
    s.read 0 s.sp = .ok 0x00#8 ∧ (s.setReg spAddr (s.sp + 1#8)).read 1 (s.sp + 1#8) = .ok 0xD9#8 := by decide

theorem witness_IretResult :
    let sp := busy.sp
    let s1 := (busy.setReg spAddr (sp + 1#8)).setReg flagsAddr 0x00#8
    let s2 := s1.setReg spAddr (sp + 2#8)
    busy.read 0 sp = .ok 0x00#8 ∧ s1.read 1 (sp + 1#8) = .ok 0x12#8 ∧ s2.read 2 (sp + 2#8) = .ok 0x03#8 := by
  decide

theorem witness_ReturnUndoesCall : ∃ t h : State, PlainStack busy 2 ∧ exec (.call_da 0x0456#16) busy = .next t ∧
    h.cfg = t.cfg ∧ h.sp = t.sp ∧
    ∀ k, 1 ≤ k → k ≤ 2 → h.reg (busy.sp - BitVec.ofNat 8 k) = t.reg (busy.sp - BitVec.ofNat 8 k) := by
  refine ⟨_, _, fun k h1 h2 a ha => ?_, rfl, rfl, rfl, fun _ _ _ => rfl⟩
  interval_cases k <;> subst ha <;> decide

theorem witness_ReturnUndoesCall_indirect : ∃ t h : State, PlainStack busy 2 ∧
    exec (.call_ipair 0x00#8) busy = .next t ∧ h.cfg = t.cfg ∧ h.sp = t.sp ∧
    ∀ k, 1 ≤ k → k ≤ 2 → h.reg (busy.sp - BitVec.ofNat 8 k) = t.reg (busy.sp - BitVec.ofNat 8 k) := by
  refine ⟨_, _, fun k h1 h2 a ha => ?_, rfl, rfl, rfl, fun _ _ _ => rfl⟩
  interval_cases k <;> subst ha <;> decide

/-- Running with a request pending, SYM.2 set before DI and clear before EI. -/
theorem witness_InterruptEnableResult : (∃ t, exec .di requested = .next t) ∧
    (∃ t, exec .ei { busy with pending := [⟨1, false⟩] } = .next t) ∧ requested.runState = .running ∧
    requested.resetAsserted = false ∧ busy.runState = .running ∧ busy.resetAsserted = false ∧
    ({ busy with pending := [⟨1, false⟩] } : State).pending ≠ [] := by
  refine ⟨⟨_, rfl⟩, ⟨_, rfl⟩, rfl, rfl, rfl, rfl, by decide⟩

theorem witness_IdleStopResult :
    (odd.cfg.stopconAddr = some 0xE0#8 ∧ (odd.setReg 0xE0#8 0xA5#8).reg 0xE0#8 = 0xA5#8) ∧
      odd.reg 0xE0#8 ≠ 0xA5#8 ∧ busy.cfg.stopconAddr = none := by decide

/-- Running, Idle, and Stop with an external request, with room on the stack and the vector in range. -/
theorem witness_InterruptEntry :
    (TakesInterrupt requested ∧ TakesInterrupt { requested with runState := .idle } ∧
      TakesInterrupt { requested with runState := .stop }) ∧
    AllImplemented requested
      (pushes requested [] [requested.pc.extractLsb' 0 8, requested.pc.extractLsb' 8 8, 0#8]) ∧
    requested.cfg.intVector.toNat < requested.cfg.pmSize.val ∧
    (requested.cfg.intVector + 1#16).toNat < requested.cfg.pmSize.val := by
  refine ⟨⟨⟨rfl, by decide, .inl ⟨rfl, by decide⟩⟩, ⟨rfl, by decide, .inr (.inl ⟨rfl, by decide⟩)⟩,
    ⟨rfl, by decide, .inr (.inr ⟨rfl, ⟨1, true⟩, by decide, rfl⟩)⟩⟩, ?_, by decide, by decide⟩
  exact allImplemented_of _ _ (by rfl)

theorem witness_IretUndoesInterrupt : ∃ t h : State, TakesInterrupt requested ∧ requested.cfg.wf = true ∧
    PlainStack requested 3 ∧
    (∀ k, 1 ≤ k → k ≤ 3 → requested.sp - BitVec.ofNat 8 k ≠ requested.cfg.symAddr) ∧
    step requested = .next t ∧ h.cfg = t.cfg ∧ h.sp = t.sp ∧
    ∀ k, 1 ≤ k → k ≤ 3 → h.reg (requested.sp - BitVec.ofNat 8 k) = t.reg (requested.sp - BitVec.ofNat 8 k) := by
  refine ⟨_, _, ⟨rfl, by decide, .inl ⟨rfl, by decide⟩⟩, by decide, fun k h1 h2 a ha => ?_, fun k h1 h2 => ?_,
    rfl, rfl, rfl, fun _ _ _ => rfl⟩
  · interval_cases k <;> subst ha <;> decide
  · interval_cases k <;> decide

/-- Stop mode with a request that is not external, and Idle mode with a masked one. -/
theorem witness_HaltedStep :
    (¬ Released { busy with runState := .stop, pending := [⟨1, false⟩] }) ∧
      ¬ Released { busy with runState := .idle } ∧
      Released { busy with runState := .idle, pending := [⟨1, false⟩] } ∧
      { busy with runState := .idle, pending := [⟨1, false⟩] }.interruptsEnabled = false := by
  refine ⟨?_, ?_, .inl ⟨rfl, by decide⟩, by decide⟩
  · rintro (⟨h, -⟩ | ⟨-, r, hr, he⟩)
    · exact absurd h (by decide)
    · obtain rfl := List.mem_singleton.mp hr
      exact absurd he (by decide)
  · rintro (⟨-, h⟩ | ⟨h, -⟩)
    · exact h rfl
    · exact absurd h (by decide)

theorem witness_ResetStep : { requested with resetAsserted := true }.resetAsserted = true ∧
    { requested with runState := .stop, resetAsserted := true }.resetAsserted = true := ⟨rfl, rfl⟩

theorem witness_StepKeepsMemoryInv : ∃ t,
    ({ odd with
      pm := [(0x100, 0xD3#8), (0x101, 0x14#8), (0x150, 0x00#8)], pmWritten := [0x150],
      dm := [(0x1FFF, 0x05#8)] } : State).MemoryInv ∧
    step { odd with
      pm := [(0x100, 0xD3#8), (0x101, 0x14#8), (0x150, 0x00#8)], pmWritten := [0x150],
      dm := [(0x1FFF, 0x05#8)] } = .next t := by
  refine ⟨_, ⟨by decide, by decide, by decide, by decide, by decide, ?_, by decide⟩, rfl⟩
  intro a ha
  exact ⟨0x00#8, by simp at ha; subst ha; decide⟩

theorem witness_MaskedRomIsConstant : ∃ t,
    (State.reset.withFetchWord 8 0xFF).cfg.pmWritable = false ∧
    Reaches (State.reset.withFetchWord 8 0xFF) t ∧ t.resetAsserted = true ∧ t.pc = 0x0101#16 :=
  ⟨_, rfl, .env (.step .refl rfl) (.assertReset _), rfl, by decide⟩

theorem witness_InstructionFrame : ∃ t, exec (.ldc_irr_r 2#3 1#4) odd = .next t := ⟨_, rfl⟩

/-- Every fault that InstructionFaultCauses explains is raised by some instruction, `unpredictable` in each case of
its row. -/
theorem witness_InstructionFaultCauses :
    (exec (.clr_reg 0x10#8) odd = .fault (.unimplementedRegister 0x10#8) ∧
      exec (.jp_ipair 0xFF#8) busy = .fault (.oddRegisterPair 0xFF#8) ∧
      exec (.ldc_da_r 0#16 0#4) busy = .fault .progMemWriteUnsupported ∧
      exec .stop busy = .fault .parameterOpen ∧
      exec (.lde_r_da 0#4 0x2000#16) busy = .fault (.addressOutOfRange 0x2000#16) ∧
      exec (.ldc_xs_r 0x01#8 2#3 0#4) odd = .fault (.addressOutOfRange 0x2000#16) ∧
      exec (.ldci_r_irr 0#4 3#3) busy = .fault (.addressOutOfRange 0x2000#16)) ∧
    exec (.add_reg_im flagsAddr 0#8) busy = .fault .unpredictable ∧
      exec (.com_reg flagsAddr) busy = .fault .unpredictable ∧
      exec (.inc_r 0xB#4) overlapped = .fault .unpredictable ∧
      exec (.push_reg spAddr) busy = .fault .unpredictable ∧
      exec (.lded_r_irr 4#4 2#3) busy = .fault .unpredictable ∧
      exec (.call_ipair 0xBE#8) busy = .fault .unpredictable :=
  ⟨⟨rfl, rfl, rfl, rfl, rfl, rfl, rfl⟩, rfl, rfl, rfl, rfl, rfl, rfl⟩

end Sys2Proof.Tests
end

section
/-! PROOFS. CLR (40_load R100): both forms are one shared load of 00H at the form's operand location. -/

namespace Sys2Proof.Machine

open Sys2Proof Sys2Proof.Claims

/-- The bytes of CLR in both forms (40_load R100, 30_encoding R76). -/
theorem encode_clr (f : Form1) : encode (Op1.clr.instr f) = f.bytes 0xB#4 := by
  cases f with
  | rg a => rfl
  | ir a => rfl

theorem exec_clr_reg (a : Byte) (s : State) : exec (.clr_reg a) s = finish (loadReg 2 a (.ok 0#8) s) := rfl

theorem exec_clr_ireg (a : Byte) (s : State) :
    exec (.clr_ireg a) s = finish (loadAt 2 (s.through a) (.ok 0#8) s) := rfl

/-- Where the operand location is known, CLR is the load of 00H there, whichever its form. -/
theorem exec_clr_of_loc {s : State} {f : Form1} {a : Byte} (h : f.loc s = .ok a) :
    exec (Op1.clr.instr f) s = finish (loadReg 2 a (.ok 0#8) s) := by
  cases f with
  | rg b =>
    cases h
    exact exec_clr_reg a s
  | ir p =>
    have through : s.through p = .ok a := h
    exact (exec_clr_ireg p s).trans (congrArg finish (loadAt_eq through))

/-- CLR at a location that is there clears it and changes nothing else; FLAGS is a location like any other. -/
theorem does_clr {s : State} {f : Form1} {a : Byte} (h : f.loc s = .ok a) (hi : Implemented s a) :
    Does (Op1.clr.instr f) s [(a, 0#8)] (s.pc + 2#16) := by
  obtain ⟨t, ht, e⟩ := loadReg_ok (len := 2) (src := .ok 0#8) rfl hi
  exact ⟨t, (exec_clr_of_loc h).trans (finish_ok ht), e⟩

/-- Settles O30, from the bytes of CLR and its effect, each over both forms. -/
theorem clrResult : Obligations.ClrResult :=
  fun _ f => ⟨encode_clr f, fun _ h hi => does_clr h hi⟩

end Sys2Proof.Machine
end

section
/-! PROOFS. TCM and TM (44_bit_manipulation R150, R151): every form of both is one shared test of the form's
destination against its source, and a test result of 0 says that no selected bit is left. -/

namespace Sys2Proof.Machine

open Sys2Proof Sys2Proof.Claims

/-- The bytes of TCM in every form (44_bit_manipulation R150, 30_encoding R75). -/
theorem encode_tcm (f : Form2) : encode (Op2.tcm.instr f) = f.bytes 0x6#4 := by
  cases f with
  | rr d r => rfl
  | rir d r => rfl
  | rgrg d a => rfl
  | rgir d a => rfl
  | rgim d im => rfl

/-- The bytes of TM in every form (44_bit_manipulation R151, 30_encoding R75). -/
theorem encode_tm (f : Form2) : encode (Op2.tm.instr f) = f.bytes 0x7#4 := by
  cases f with
  | rr d r => rfl
  | rir d r => rfl
  | rgrg d a => rfl
  | rgir d a => rfl
  | rgim d im => rfl

theorem exec_tcm (s : State) (f : Form2) :
    exec (Op2.tcm.instr f) s = finish (testop aluTcm f.len (f.dst s) (f.src s) s) := by
  cases f with
  | rr d r => rfl
  | rir d r => rfl
  | rgrg d a => rfl
  | rgir d a => rfl
  | rgim d im => rfl

theorem exec_tm (s : State) (f : Form2) :
    exec (Op2.tm.instr f) s = finish (testop aluAnd f.len (f.dst s) (f.src s) s) := by
  cases f with
  | rr d r => rfl
  | rir d r => rfl
  | rgrg d a => rfl
  | rgir d a => rfl
  | rgim d im => rfl

/-- An instruction that is a test of two operands that can be read sets the flags that its computation gives,
and changes nothing else; no destination is excepted (10_state R22). -/
theorem setsFlags_of_testop {i : Instr} {s : State} {alu : Byte → Byte → Flags → Byte × Flags} {len : Nat}
    {dst v d : Byte} {src : Except Fault Byte} {c z n o : Bool}
    (hexec : exec i s = finish (testop alu len dst src s)) (hv : src = .ok v) (hd : s.read 2 dst = .ok d)
    (hflags : (alu d v s.flags).2 = ⟨c, z, n, o⟩) : SetsFlags i s len c z n o := by
  obtain ⟨t, ht, effect⟩ := testop_ok (f := alu) (len := len) hv hd
  rw [hflags] at effect
  exact ⟨t, _, hexec.trans (finish_ok ht), effect, packFlags_flagsByte s _⟩

/-- A mask leaves nothing of `x` exactly when every bit it selects is 0 in `x`. -/
theorem and_mask_eq_zero_iff {w : Nat} (x mask : BitVec w) :
    x &&& mask = 0#w ↔ ∀ k, k < w → mask.getLsbD k = true → x.getLsbD k = false := by
  constructor
  · intro h k _ selected
    have bit : (x &&& mask).getLsbD k = false := by rw [h, BitVec.getLsbD_zero]
    simpa [selected] using bit
  · intro h
    refine BitVec.eq_of_getLsbD_eq fun k hk => ?_
    rw [BitVec.getLsbD_and, BitVec.getLsbD_zero]
    cases selected : mask.getLsbD k with
    | false => exact Bool.and_false _
    | true => rw [h k hk selected, Bool.false_and]

/-- A mask leaves nothing of the complement of `x` exactly when every bit it selects is 1 in `x`. -/
theorem not_and_mask_eq_zero_iff {w : Nat} (x mask : BitVec w) :
    ~~~x &&& mask = 0#w ↔ ∀ k, k < w → mask.getLsbD k = true → x.getLsbD k = true := by
  rw [and_mask_eq_zero_iff]
  refine forall₂_congr fun k hk => ?_
  rw [BitVec.getLsbD_not, decide_eq_true hk, Bool.true_and, Bool.not_eq_false']

/-- Settles O21, from the bytes of TCM and TM, the one shared test that both are, and what a masked 0 says. -/
theorem bitTestResult : Obligations.BitTestResult :=
  ⟨fun s f => ⟨encode_tcm f, encode_tm f, fun _ _ hv hd =>
      ⟨setsFlags_of_testop (exec_tcm s f) hv hd rfl, setsFlags_of_testop (exec_tm s f) hv hd rfl⟩⟩,
    fun d v => ⟨not_and_mask_eq_zero_iff d v, and_mask_eq_zero_iff d v⟩⟩

end Sys2Proof.Machine
end

section
/-! PROOFS. CCF and SCF (46_cpu_control R165, R171): both are one shared flag write that gives C and keeps Z, S and
V, so one lemma about such an instruction serves both. -/

namespace Sys2Proof.Machine

open Sys2Proof Sys2Proof.Claims

theorem exec_ccf (s : State) :
    exec .ccf s = .next ((s.setFlags { s.flags with c := !s.flags.c }).advance 1) := rfl

theorem exec_scf (s : State) :
    exec .scf s = .next ((s.setFlags { s.flags with c := true }).advance 1) := rfl

/-- An instruction that writes the flags `f` and moves past its `len` bytes sets just these flags: bits 3..0 of
FLAGS stay as stored (10_state R21), and nothing else changes. -/
theorem setsFlags_of_setFlags {i : Instr} {s : State} {f : Flags} {len : Nat}
    (hexec : exec i s = .next ((s.setFlags f).advance len)) : SetsFlags i s len f.c f.z f.s f.v :=
  have effect := (effect_setFlags s f).advance len
  ⟨_, _, hexec, effect, packFlags_flagsByte s f⟩

/-- Settles O46, from the one flag write that CCF and SCF each are. -/
theorem carryFlagResult : Obligations.CarryFlagResult :=
  ⟨rfl, rfl, fun s => ⟨setsFlags_of_setFlags (exec_ccf s), setsFlags_of_setFlags (exec_scf s)⟩⟩

end Sys2Proof.Machine
end

section
/-! PROOFS. The shapes of instructions: each of the 120 constructors is an operation of a form set applied to an
operand form, a move between a register and a memory, or one of sixteen instructions that stand alone; and the
meaning of each shape is one shared operation. The proofs about all instructions split along the shapes. -/

namespace Sys2Proof.Claims

open Sys2Proof Sys2Proof.Machine

/-- The shapes of instructions (30_encoding R75, R76; 40_load R101 to R109; the rest by constructor). -/
inductive Shape : Instr → Prop where
  | twoOperand (op : Op2) (f : Form2) : Shape (op.instr f)
  | oneOperand (op : Op1) (f : Form1) : Shape (op.instr f)
  | incWorking (n : WReg) : Shape (.inc_r n)
  | ld (f : LdForm) : Shape f.instr
  | memLoad (m : Space) (d : WReg) (f : MemForm) : Shape (m.load d f)
  | memStore (m : Space) (f : MemForm) (r : WReg) : Shape (m.store f r)
  | memStep (m : Space) (up : Bool) (d : WReg) (p : Pair) : Shape (m.loadStep up d p)
  | callDirect (a : Addr) : Shape (.call_da a)
  | callPair (a : Byte) : Shape (.call_ipair a)
  | iret : Shape .iret
  | jumpIf (cc : Cond) (a : Addr) : Shape (.jp_cc_da cc a)
  | jumpPair (a : Byte) : Shape (.jp_ipair a)
  | jumpRelative (cc : Cond) (ra : Byte) : Shape (.jr_cc_ra cc ra)
  | ret : Shape .ret
  | ccf : Shape .ccf
  | di : Shape .di
  | ei : Shape .ei
  | idle : Shape .idle
  | nop : Shape .nop
  | rcf : Shape .rcf
  | scf : Shape .scf
  | stop : Shape .stop

/-- Every instruction has a shape. -/
theorem Shape.of (i : Instr) : Shape i := by
  cases i with
  | add_r_r dst src => exact .twoOperand .add (.rr dst src)
  | add_r_ir dst src => exact .twoOperand .add (.rir dst src)
  | add_reg_reg dst src => exact .twoOperand .add (.rgrg dst src)
  | add_reg_ireg dst src => exact .twoOperand .add (.rgir dst src)
  | add_reg_im dst im => exact .twoOperand .add (.rgim dst im)
  | adc_r_r dst src => exact .twoOperand .adc (.rr dst src)
  | adc_r_ir dst src => exact .twoOperand .adc (.rir dst src)
  | adc_reg_reg dst src => exact .twoOperand .adc (.rgrg dst src)
  | adc_reg_ireg dst src => exact .twoOperand .adc (.rgir dst src)
  | adc_reg_im dst im => exact .twoOperand .adc (.rgim dst im)
  | sub_r_r dst src => exact .twoOperand .sub (.rr dst src)
  | sub_r_ir dst src => exact .twoOperand .sub (.rir dst src)
  | sub_reg_reg dst src => exact .twoOperand .sub (.rgrg dst src)
  | sub_reg_ireg dst src => exact .twoOperand .sub (.rgir dst src)
  | sub_reg_im dst im => exact .twoOperand .sub (.rgim dst im)
  | sbc_r_r dst src => exact .twoOperand .sbc (.rr dst src)
  | sbc_r_ir dst src => exact .twoOperand .sbc (.rir dst src)
  | sbc_reg_reg dst src => exact .twoOperand .sbc (.rgrg dst src)
  | sbc_reg_ireg dst src => exact .twoOperand .sbc (.rgir dst src)
  | sbc_reg_im dst im => exact .twoOperand .sbc (.rgim dst im)
  | or_r_r dst src => exact .twoOperand .or (.rr dst src)
  | or_r_ir dst src => exact .twoOperand .or (.rir dst src)
  | or_reg_reg dst src => exact .twoOperand .or (.rgrg dst src)
  | or_reg_ireg dst src => exact .twoOperand .or (.rgir dst src)
  | or_reg_im dst im => exact .twoOperand .or (.rgim dst im)
  | and_r_r dst src => exact .twoOperand .and (.rr dst src)
  | and_r_ir dst src => exact .twoOperand .and (.rir dst src)
  | and_reg_reg dst src => exact .twoOperand .and (.rgrg dst src)
  | and_reg_ireg dst src => exact .twoOperand .and (.rgir dst src)
  | and_reg_im dst im => exact .twoOperand .and (.rgim dst im)
  | tcm_r_r dst src => exact .twoOperand .tcm (.rr dst src)
  | tcm_r_ir dst src => exact .twoOperand .tcm (.rir dst src)
  | tcm_reg_reg dst src => exact .twoOperand .tcm (.rgrg dst src)
  | tcm_reg_ireg dst src => exact .twoOperand .tcm (.rgir dst src)
  | tcm_reg_im dst im => exact .twoOperand .tcm (.rgim dst im)
  | tm_r_r dst src => exact .twoOperand .tm (.rr dst src)
  | tm_r_ir dst src => exact .twoOperand .tm (.rir dst src)
  | tm_reg_reg dst src => exact .twoOperand .tm (.rgrg dst src)
  | tm_reg_ireg dst src => exact .twoOperand .tm (.rgir dst src)
  | tm_reg_im dst im => exact .twoOperand .tm (.rgim dst im)
  | cp_r_r dst src => exact .twoOperand .cp (.rr dst src)
  | cp_r_ir dst src => exact .twoOperand .cp (.rir dst src)
  | cp_reg_reg dst src => exact .twoOperand .cp (.rgrg dst src)
  | cp_reg_ireg dst src => exact .twoOperand .cp (.rgir dst src)
  | cp_reg_im dst im => exact .twoOperand .cp (.rgim dst im)
  | xor_r_r dst src => exact .twoOperand .xor (.rr dst src)
  | xor_r_ir dst src => exact .twoOperand .xor (.rir dst src)
  | xor_reg_reg dst src => exact .twoOperand .xor (.rgrg dst src)
  | xor_reg_ireg dst src => exact .twoOperand .xor (.rgir dst src)
  | xor_reg_im dst im => exact .twoOperand .xor (.rgim dst im)
  | dec_reg dst => exact .oneOperand .dec (.rg dst)
  | dec_ireg dst => exact .oneOperand .dec (.ir dst)
  | rlc_reg dst => exact .oneOperand .rlc (.rg dst)
  | rlc_ireg dst => exact .oneOperand .rlc (.ir dst)
  | inc_reg dst => exact .oneOperand .inc (.rg dst)
  | inc_ireg dst => exact .oneOperand .inc (.ir dst)
  | pop_reg dst => exact .oneOperand .pop (.rg dst)
  | pop_ireg dst => exact .oneOperand .pop (.ir dst)
  | com_reg dst => exact .oneOperand .com (.rg dst)
  | com_ireg dst => exact .oneOperand .com (.ir dst)
  | push_reg src => exact .oneOperand .push (.rg src)
  | push_ireg src => exact .oneOperand .push (.ir src)
  | rl_reg dst => exact .oneOperand .rl (.rg dst)
  | rl_ireg dst => exact .oneOperand .rl (.ir dst)
  | clr_reg dst => exact .oneOperand .clr (.rg dst)
  | clr_ireg dst => exact .oneOperand .clr (.ir dst)
  | rrc_reg dst => exact .oneOperand .rrc (.rg dst)
  | rrc_ireg dst => exact .oneOperand .rrc (.ir dst)
  | sra_reg dst => exact .oneOperand .sra (.rg dst)
  | sra_ireg dst => exact .oneOperand .sra (.ir dst)
  | rr_reg dst => exact .oneOperand .rr (.rg dst)
  | rr_ireg dst => exact .oneOperand .rr (.ir dst)
  | inc_r dst => exact .incWorking dst
  | ld_r_im dst im => exact .ld (.rim dst im)
  | ld_r_reg dst src => exact .ld (.rrg dst src)
  | ld_reg_r dst src => exact .ld (.rgr dst src)
  | ld_r_ir dst src => exact .ld (.rir dst src)
  | ld_ir_r dst src => exact .ld (.irr dst src)
  | ld_reg_reg dst src => exact .ld (.rgrg dst src)
  | ld_reg_ireg dst src => exact .ld (.rgir dst src)
  | ld_reg_im dst im => exact .ld (.rgim dst im)
  | ld_ireg_im dst im => exact .ld (.irim dst im)
  | ld_ireg_reg dst src => exact .ld (.irrg dst src)
  | ld_r_x dst x idx => exact .ld (.rx dst x idx)
  | ld_x_r x idx src => exact .ld (.xr x idx src)
  | ldc_r_irr dst pair => exact .memLoad .program dst (.irr pair)
  | lde_r_irr dst pair => exact .memLoad .data dst (.irr pair)
  | ldc_irr_r pair src => exact .memStore .program (.irr pair) src
  | lde_irr_r pair src => exact .memStore .data (.irr pair) src
  | ldc_r_xs dst xs pair => exact .memLoad .program dst (.xs xs pair)
  | lde_r_xs dst xs pair => exact .memLoad .data dst (.xs xs pair)
  | ldc_xs_r xs pair src => exact .memStore .program (.xs xs pair) src
  | lde_xs_r xs pair src => exact .memStore .data (.xs xs pair) src
  | ldc_r_da dst addr => exact .memLoad .program dst (.da addr)
  | lde_r_da dst addr => exact .memLoad .data dst (.da addr)
  | ldc_r_xl dst xl pair => exact .memLoad .program dst (.xl xl pair)
  | lde_r_xl dst xl pair => exact .memLoad .data dst (.xl xl pair)
  | ldc_da_r addr src => exact .memStore .program (.da addr) src
  | lde_da_r addr src => exact .memStore .data (.da addr) src
  | ldc_xl_r xl pair src => exact .memStore .program (.xl xl pair) src
  | lde_xl_r xl pair src => exact .memStore .data (.xl xl pair) src
  | ldcd_r_irr dst pair => exact .memStep .program false dst pair
  | lded_r_irr dst pair => exact .memStep .data false dst pair
  | ldci_r_irr dst pair => exact .memStep .program true dst pair
  | ldei_r_irr dst pair => exact .memStep .data true dst pair
  | call_da addr => exact .callDirect addr
  | call_ipair dst => exact .callPair dst
  | iret => exact .iret
  | jp_cc_da cc addr => exact .jumpIf cc addr
  | jp_ipair dst => exact .jumpPair dst
  | jr_cc_ra cc ra => exact .jumpRelative cc ra
  | ret => exact .ret
  | ccf => exact .ccf
  | di => exact .di
  | ei => exact .ei
  | idle => exact .idle
  | nop => exact .nop
  | rcf => exact .rcf
  | scf => exact .scf
  | stop => exact .stop

/-- What a two-operand instruction does with its destination location and its source (R75): all write the
destination but TCM, TM and CP. -/
def Op2.run : Op2 → Nat → Byte → Except Fault Byte → State → Except Fault State
  | .add => binop aluAdd
  | .adc => binop aluAdc
  | .sub => binop aluSub
  | .sbc => binop aluSbc
  | .or => binop aluOr
  | .and => binop aluAnd
  | .tcm => testop aluTcm
  | .tm => testop aluAnd
  | .cp => testop aluSub
  | .xor => binop aluXor

/-- What a one-operand instruction does at its operand location (R76). -/
def Op1.run : Op1 → Byte → State → Except Fault State
  | .dec => unop aluDec 2
  | .rlc => unop aluRlc 2
  | .inc => unop aluInc 2
  | .pop => popTo
  | .com => unop aluCom 2
  | .push => pushFrom
  | .rl => unop aluRl 2
  | .clr => fun a => loadReg 2 a (.ok 0#8)
  | .rrc => unop aluRrc 2
  | .sra => unop aluSra 2
  | .rr => unop aluRr 2

theorem Op2.run_of_writes {op : Op2} (h : op ∉ [.tcm, .tm, .cp]) : ∃ alu, op.run = binop alu := by
  cases op with
  | tcm | tm | cp => exact absurd h (by decide)
  | add | adc | sub | sbc | or | and | xor => exact ⟨_, rfl⟩

theorem Op2.run_of_tests {op : Op2} (h : op ∈ [.tcm, .tm, .cp]) : ∃ alu, op.run = testop alu := by
  cases op with
  | tcm | tm | cp => exact ⟨_, rfl⟩
  | add | adc | sub | sbc | or | and | xor => exact absurd h (by decide)

theorem Op1.run_of_writes {op : Op1} (h : op ∉ [.pop, .push, .clr]) : ∃ alu, op.run = unop alu 2 := by
  cases op with
  | pop | push | clr => exact absurd h (by decide)
  | dec | rlc | inc | com | rl | rrc | sra | rr => exact ⟨_, rfl⟩

/-- The machine's load from a memory. -/
def Space.read : Space → State → Addr → Except Fault Byte
  | .program => State.pmLoad
  | .data => State.dmLoad

/-- The machine's store to a memory. -/
def Space.write : Space → State → Addr → Byte → Except Fault State
  | .program => State.pmStore
  | .data => State.dmStore

/-- What a stepping load adds to its address pair (40_load R106 to R109). -/
def stepDelta (up : Bool) : Addr := if up then 1#16 else 0xFFFF#16

/-! ### The meaning of each shape -/

theorem exec_op2 (op : Op2) (f : Form2) (s : State) :
    exec (op.instr f) s = finish (op.run f.len (f.dst s) (f.src s) s) := by
  cases op <;> cases f <;> rfl

theorem exec_op1 (op : Op1) (f : Form1) (s : State) :
    exec (op.instr f) s = finish (f.loc s >>= fun a => op.run a s) := by
  cases op <;> cases f <;> rfl

theorem exec_inc_r (n : WReg) (s : State) : exec (.inc_r n) s = finish (unop aluInc 1 (s.wr n) s) := rfl

theorem indexed_eq_map (s : State) (x : Byte) (i : WReg) :
    s.indexed x i = (s.read 0 (s.wr i)).map (x + ·) := by
  unfold State.indexed
  cases s.read 0 (s.wr i) <;> rfl

theorem srcIndexed_eq_bind (s : State) (x : Byte) (i : WReg) :
    s.srcIndexed x i = (s.read 0 (s.wr i)).bind fun v => s.read 1 (x + v) := by
  unfold State.srcIndexed State.indexed
  cases s.read 0 (s.wr i) <;> rfl

theorem exec_ld (f : LdForm) (s : State) :
    exec f.instr s = finish (f.dst s >>= fun a => loadReg f.len a (f.src s) s) := by
  cases f with
  | rx d x i => exact congrArg (fun r => finish (loadReg 3 (s.wr d) r s)) (srcIndexed_eq_bind s x i)
  | xr x i r => exact congrArg (fun l => finish (loadAt 3 l (s.srcReg (s.wr r)) s)) (indexed_eq_map s x i)
  | rim | rrg | rgr | rir | irr | rgrg | rgir | rgim | irim | irrg => rfl

theorem exec_memLoad (m : Space) (d : WReg) (f : MemForm) (s : State) :
    exec (m.load d f) s = finish (f.addr s >>= fun A => loadReg f.len (s.wr d) (m.read s A) s) := by
  cases m <;> cases f <;> rfl

theorem exec_memStore (m : Space) (f : MemForm) (r : WReg) (s : State) :
    exec (m.store f r) s = finish (f.addr s >>= fun A => s.read 2 (s.wr r) >>= fun v =>
      m.write s A v >>= fun t => .ok (t.advance f.len)) := by
  cases m <;> cases f <;> rfl

theorem exec_memStep (m : Space) (up : Bool) (d : WReg) (p : Pair) (s : State) :
    exec (m.loadStep up d p) s = finish (loadStep m.read (stepDelta up) d p s) := by
  cases m <;> cases up <;> rfl

theorem exec_call_da (a : Addr) (s : State) : exec (.call_da a) s = finish (callTo 3 a s) := rfl
theorem exec_call_ipair (a : Byte) (s : State) : exec (.call_ipair a) s = finish (callThrough a s) := rfl
theorem exec_iret (s : State) : exec .iret s = finish (returnFromInterrupt s) := rfl
theorem exec_jp_cc_da (cc : Cond) (a : Addr) (s : State) :
    exec (.jp_cc_da cc a) s = .next (jumpIf cc 3 a s) := rfl
theorem exec_jp_ipair (a : Byte) (s : State) : exec (.jp_ipair a) s = finish (jumpTo (s.addrIpair a) s) := rfl
theorem exec_jr_cc_ra (cc : Cond) (ra : Byte) (s : State) :
    exec (.jr_cc_ra cc ra) s = .next (jumpIf cc 2 (s.npc 2 + ra.signExtend 16) s) := rfl
theorem exec_ret (s : State) : exec .ret s = finish (returnFromCall s) := rfl
theorem exec_di (s : State) : exec .di s = .next (s.disableInterrupts.advance 1) := rfl
theorem exec_ei (s : State) : exec .ei s = .next (s.enableInterrupts.advance 1) := rfl
theorem exec_idle (s : State) : exec .idle s = .next { s.advance 1 with runState := .idle } := rfl
theorem exec_nop (s : State) : exec .nop s = .next (s.advance 1) := rfl
theorem exec_rcf (s : State) : exec .rcf s = .next ((s.setFlags { s.flags with c := false }).advance 1) := rfl

/-- STOP while STOPCON_ADDR is not configured (46_cpu_control R172, decision D16). -/
theorem exec_stop_open {s : State} (h : s.cfg.stopconAddr = none) : exec .stop s = .fault .parameterOpen := by
  show execStop s = _
  simp only [execStop, h]

/-- STOP with its key in STOPCON (46_cpu_control R172). -/
theorem exec_stop_key {s : State} {a : Byte} (h : s.cfg.stopconAddr = some a) (hk : s.reg a = stopKey) :
    exec .stop s = .next { s.advance 1 with runState := .stop } := by
  show execStop s = _
  simp only [execStop, h]
  exact if_pos hk

/-- STOP without its key goes to the reset address (60_exceptions R181). -/
theorem exec_stop_noKey {s : State} {a : Byte} (h : s.cfg.stopconAddr = some a) (hk : s.reg a ≠ stopKey) :
    exec .stop s = .next { s with pc := s.cfg.resetAddr } := by
  show execStop s = _
  simp only [execStop, h]
  exact if_neg hk

end Sys2Proof.Claims
end

section
/-! PROOFS. The round trips of decoder and encoder (30_encoding R60, R61, R68 to R71). The opcode map is read by
column: the low nibble of the first byte selects the column, the high nibble the row. -/

namespace Sys2Proof.Claims

open Sys2Proof Sys2Proof.Machine

/-! ### The encodings of the form sets -/

theorem encode_op2 (op : Op2) (f : Form2) : encode (op.instr f) = f.bytes op.nibble := by
  cases op <;> cases f <;> rfl

theorem encode_op1 (op : Op1) (f : Form1) : encode (op.instr f) = f.bytes op.nibble := by
  cases op <;> cases f <;> rfl

theorem encode_ld (f : LdForm) : encode f.instr = f.bytes := by
  cases f <;> rfl

theorem encode_memLoad (m : Space) (d : WReg) (f : MemForm) :
    encode (m.load d f) = f.loadOpcode :: f.operandBytes m d := by
  cases m <;> cases f <;> rfl

theorem encode_memStore (m : Space) (r : WReg) (f : MemForm) :
    encode (m.store f r) = f.storeOpcode :: f.operandBytes m r := by
  cases m <;> cases f <;> rfl

theorem encode_memStep (m : Space) (d : WReg) (p : Pair) :
    encode (m.loadStep false d p) = [0xE2#8, d ++ (p ++ m.bit)] ∧
    encode (m.loadStep true d p) = [0xE3#8, d ++ (p ++ m.bit)] := by
  cases m <;> exact ⟨rfl, rfl⟩

theorem length_form2 (f : Form2) (h : BitVec 4) : (f.bytes h).length = f.len := by cases f <;> rfl

theorem length_form1 (f : Form1) (h : BitVec 4) : (f.bytes h).length = 2 := by cases f <;> rfl

/-- Settles O5, from the bytes of the two form sets. -/
theorem operandFormEncodings : Obligations.OperandFormEncodings :=
  ⟨fun op f => ⟨encode_op2 op f, (congrArg List.length (encode_op2 op f)).trans (length_form2 f _)⟩,
    fun op f => ⟨encode_op1 op f, (congrArg List.length (encode_op1 op f)).trans (length_form1 f _)⟩⟩

/-! ### The columns of the opcode map -/

section Columns
variable (h : BitVec 4) (b2 b3 b4 : Byte)

theorem decodeOp_col0 : decodeOp (joinNib h 0x0#4) b2 b3 b4 = col0 h b2 := by simp [decodeOp]
theorem decodeOp_col1 : decodeOp (joinNib h 0x1#4) b2 b3 b4 = col1 h b2 := by simp [decodeOp]
theorem decodeOp_col2 : decodeOp (joinNib h 0x2#4) b2 b3 b4 = col2 h b2 := by simp [decodeOp]
theorem decodeOp_col3 : decodeOp (joinNib h 0x3#4) b2 b3 b4 = col3 h b2 := by simp [decodeOp]
theorem decodeOp_col4 : decodeOp (joinNib h 0x4#4) b2 b3 b4 = col4 h b2 b3 := by simp [decodeOp]
theorem decodeOp_col5 : decodeOp (joinNib h 0x5#4) b2 b3 b4 = col5 h b2 b3 := by simp [decodeOp]
theorem decodeOp_col6 : decodeOp (joinNib h 0x6#4) b2 b3 b4 = col6 h b2 b3 := by simp [decodeOp]
theorem decodeOp_col7 : decodeOp (joinNib h 0x7#4) b2 b3 b4 = col7 h b2 b3 b4 := by simp [decodeOp]
theorem decodeOp_col8 : decodeOp (joinNib h 0x8#4) b2 b3 b4 = some (.ld_r_reg h b2) := by simp [decodeOp]
theorem decodeOp_col9 : decodeOp (joinNib h 0x9#4) b2 b3 b4 = some (.ld_reg_r b2 h) := by simp [decodeOp]
theorem decodeOp_colB : decodeOp (joinNib h 0xB#4) b2 b3 b4 = some (.jr_cc_ra (condOfBits h) b2) := by
  simp [decodeOp]
theorem decodeOp_colC : decodeOp (joinNib h 0xC#4) b2 b3 b4 = some (.ld_r_im h b2) := by simp [decodeOp]
theorem decodeOp_colD :
    decodeOp (joinNib h 0xD#4) b2 b3 b4 = some (.jp_cc_da (condOfBits h) (word16 b2 b3)) := by
  simp [decodeOp]
theorem decodeOp_colE : decodeOp (joinNib h 0xE#4) b2 b3 b4 = some (.inc_r h) := by simp [decodeOp]
theorem decodeOp_colF : decodeOp (joinNib h 0xF#4) b2 b3 b4 = colF h := by simp [decodeOp]

end Columns

/-- The opcode map at the first four bytes of a list. -/
def opRow (bs : List Byte) : Option Instr :=
  decodeOp (bs.getD 0 0#8) (bs.getD 1 0#8) (bs.getD 2 0#8) (bs.getD 3 0#8)

theorem opRow_op2 (op : Op2) (f : Form2) (rest : List Byte) :
    opRow (f.bytes op.nibble ++ rest) = some (op.instr f) := by
  cases f with
  | rr d r =>
    have row : ∀ b, col2 op.nibble b = some (op.instr (.rr (hiNib b) (loNib b))) := by cases op <;> exact fun _ => rfl
    refine (decodeOp_col2 op.nibble (joinNib d r) _ _).trans ?_
    rw [row, hiNib_joinNib, loNib_joinNib]
  | rir d r =>
    have row : ∀ b, col3 op.nibble b = some (op.instr (.rir (hiNib b) (loNib b))) := by cases op <;> exact fun _ => rfl
    refine (decodeOp_col3 op.nibble (joinNib d r) _ _).trans ?_
    rw [row, hiNib_joinNib, loNib_joinNib]
  | rgrg d a =>
    refine (decodeOp_col4 op.nibble a d _).trans ?_
    cases op <;> rfl
  | rgir d a =>
    refine (decodeOp_col5 op.nibble a d _).trans ?_
    cases op <;> rfl
  | rgim d im =>
    refine (decodeOp_col6 op.nibble d im _).trans ?_
    cases op <;> rfl

theorem opRow_op1 (op : Op1) (f : Form1) (rest : List Byte) :
    opRow (f.bytes op.nibble ++ rest) = some (op.instr f) := by
  cases f with
  | rg a =>
    refine (decodeOp_col0 op.nibble a _ _).trans ?_
    cases op <;> rfl
  | ir a =>
    refine (decodeOp_col1 op.nibble a _ _).trans ?_
    cases op <;> rfl

theorem opRow_ld (f : LdForm) (rest : List Byte) : opRow (f.bytes ++ rest) = some f.instr := by
  cases f with
  | rim d im => exact decodeOp_colC d im _ _
  | rrg d a => exact decodeOp_col8 d a _ _
  | rgr a r => exact decodeOp_col9 r a _ _
  | rgrg d a => exact decodeOp_col4 0xE#4 a d _
  | rgir d a => exact decodeOp_col5 0xE#4 a d _
  | rgim d im => exact decodeOp_col6 0xE#4 d im _
  | irim d im => exact decodeOp_col6 0xD#4 d im _
  | irrg d a => exact decodeOp_col5 0xF#4 a d _
  | rir d r =>
    refine (decodeOp_col7 0xC#4 (joinNib d r) _ _).trans ?_
    simp [col7, LdForm.instr]
  | irr d r =>
    refine (decodeOp_col7 0xD#4 (joinNib d r) _ _).trans ?_
    simp [col7, LdForm.instr]
  | rx d x i =>
    refine (decodeOp_col7 0x8#4 (joinNib d i) x _).trans ?_
    simp [col7, LdForm.instr]
  | xr x i r =>
    refine (decodeOp_col7 0x9#4 (joinNib r i) x _).trans ?_
    simp [col7, LdForm.instr]

theorem spaceOf_bit (p : Pair) (m : Space) : spaceOf (pairNib p m.bit) = decide (m = .data) := by
  cases m with
  | program => exact spaceOf_pairNib_zero p
  | data => exact spaceOf_pairNib_one p

/-- The load rows of the opcode map; the XL row has no pair 0 (R68). -/
theorem opRow_memLoad (m : Space) (d : WReg) (f : MemForm) (rest : List Byte) (wf : (m.load d f).wf = true) :
    opRow (f.loadOpcode :: f.operandBytes m d ++ rest) = some (m.load d f) := by
  cases f with
  | irr p =>
    refine (decodeOp_col3 0xC#4 (joinNib d (pairNib p m.bit)) _ _).trans ?_
    cases m <;> simp [col3, Space.load, spaceOf_bit]
  | xs o p =>
    refine (decodeOp_col7 0xE#4 (joinNib d (pairNib p m.bit)) o _).trans ?_
    cases m <;> simp [col7, Space.load, spaceOf_bit]
  | xl o p =>
    have pair : p ≠ 0#3 := by cases m <;> exact bne_iff_ne.1 wf
    refine (decodeOp_col7 0xA#4 (joinNib d (pairNib p m.bit)) (loByte o) (hiByte o)).trans ?_
    cases m <;> simp [col7, Space.load, spaceOf_bit, pair]
  | da a =>
    refine (decodeOp_col7 0xA#4 (joinNib d (pairNib 0#3 m.bit)) (loByte a) (hiByte a)).trans ?_
    cases m <;> simp [col7, Space.load, spaceOf_bit]

/-- The store rows of the opcode map; the XL row has no pair 0 (R68). -/
theorem opRow_memStore (m : Space) (r : WReg) (f : MemForm) (rest : List Byte)
    (wf : (m.store f r).wf = true) :
    opRow (f.storeOpcode :: f.operandBytes m r ++ rest) = some (m.store f r) := by
  cases f with
  | irr p =>
    refine (decodeOp_col3 0xD#4 (joinNib r (pairNib p m.bit)) _ _).trans ?_
    cases m <;> simp [col3, Space.store, spaceOf_bit]
  | xs o p =>
    refine (decodeOp_col7 0xF#4 (joinNib r (pairNib p m.bit)) o _).trans ?_
    cases m <;> simp [col7, Space.store, spaceOf_bit]
  | xl o p =>
    have pair : p ≠ 0#3 := by cases m <;> exact bne_iff_ne.1 wf
    refine (decodeOp_col7 0xB#4 (joinNib r (pairNib p m.bit)) (loByte o) (hiByte o)).trans ?_
    cases m <;> simp [col7, Space.store, spaceOf_bit, pair]
  | da a =>
    refine (decodeOp_col7 0xB#4 (joinNib r (pairNib 0#3 m.bit)) (loByte a) (hiByte a)).trans ?_
    cases m <;> simp [col7, Space.store, spaceOf_bit]

theorem opRow_memStep (m : Space) (up : Bool) (d : WReg) (p : Pair) (rest : List Byte) :
    opRow (encode (m.loadStep up d p) ++ rest) = some (m.loadStep up d p) := by
  cases up with
  | false =>
    rw [(encode_memStep m d p).1]
    refine (decodeOp_col2 0xE#4 (joinNib d (pairNib p m.bit)) _ _).trans ?_
    cases m <;> simp [col2, Space.loadStep, spaceOf_bit]
  | true =>
    rw [(encode_memStep m d p).2]
    refine (decodeOp_col3 0xE#4 (joinNib d (pairNib p m.bit)) _ _).trans ?_
    cases m <;> simp [col3, Space.loadStep, spaceOf_bit]

/-- The opcode map finds every well-formed instruction at its own bytes, whatever follows. -/
theorem opRow_encode {i : Instr} (wf : i.wf = true) (rest : List Byte) :
    opRow (encode i ++ rest) = some i := by
  cases Shape.of i with
  | twoOperand op f => rw [encode_op2]; exact opRow_op2 op f rest
  | oneOperand op f => rw [encode_op1]; exact opRow_op1 op f rest
  | ld f => rw [encode_ld]; exact opRow_ld f rest
  | memLoad m d f => rw [encode_memLoad]; exact opRow_memLoad m d f rest wf
  | memStore m f r => rw [encode_memStore]; exact opRow_memStore m r f rest wf
  | memStep m up d p => exact opRow_memStep m up d p rest
  | incWorking n => exact decodeOp_colE n _ _ _
  | callDirect a =>
    refine (decodeOp_col6 0xF#4 (hiByte a) (loByte a) _).trans ?_
    simp [col6]
  | jumpIf cc a =>
    refine (decodeOp_colD (condBits cc) (hiByte a) (loByte a) _).trans ?_
    simp
  | jumpRelative cc ra =>
    refine (decodeOp_colB (condBits cc) ra _ _).trans ?_
    simp
  | callPair a => exact decodeOp_col4 0xF#4 a _ _
  | jumpPair a => exact decodeOp_col0 0x3#4 a _ _
  | iret => exact decodeOp_colF 0xB#4 _ _ _
  | ret => exact decodeOp_colF 0xA#4 _ _ _
  | ccf => exact decodeOp_colF 0xE#4 _ _ _
  | di => exact decodeOp_colF 0x8#4 _ _ _
  | ei => exact decodeOp_colF 0x9#4 _ _ _
  | idle => exact decodeOp_colF 0x6#4 _ _ _
  | nop => exact decodeOp_colF 0xF#4 _ _ _
  | rcf => exact decodeOp_colF 0xC#4 _ _ _
  | scf => exact decodeOp_colF 0xD#4 _ _ _
  | stop => exact decodeOp_colF 0x7#4 _ _ _

/-- The bytes of every instruction: not empty, at most four, and as many as the first says. -/
theorem encodedLength (i : Instr) : Laws.EncodedLength.Statement i := by
  cases Shape.of i with
  | twoOperand op f =>
    cases op <;> cases f <;> exact ⟨_, _, rfl, rfl, Nat.le_of_ble_eq_true rfl⟩
  | oneOperand op f =>
    cases op <;> cases f <;> exact ⟨_, _, rfl, rfl, Nat.le_of_ble_eq_true rfl⟩
  | ld f =>
    cases f with
    | rim d im => exact Laws.EncodedLength.ld_r_im d im
    | rrg d a => exact Laws.EncodedLength.ld_r_reg d a
    | rgr a r => exact Laws.EncodedLength.ld_reg_r a r
    | rir | irr | rgrg | rgir | rgim | irim | irrg | rx | xr =>
      exact ⟨_, _, rfl, rfl, Nat.le_of_ble_eq_true rfl⟩
  | memLoad m d f =>
    cases m <;> cases f <;> exact ⟨_, _, rfl, rfl, Nat.le_of_ble_eq_true rfl⟩
  | memStore m f r =>
    cases m <;> cases f <;> exact ⟨_, _, rfl, rfl, Nat.le_of_ble_eq_true rfl⟩
  | memStep m up d p =>
    cases m <;> cases up <;> exact ⟨_, _, rfl, rfl, Nat.le_of_ble_eq_true rfl⟩
  | incWorking n => exact Laws.EncodedLength.inc_r n
  | jumpIf cc a => exact Laws.EncodedLength.jp_cc_da cc a
  | jumpRelative cc ra => exact Laws.EncodedLength.jr_cc_ra cc ra
  | callDirect | callPair | jumpPair | iret | ret | ccf | di | ei | idle | nop | rcf | scf | stop =>
    exact ⟨_, _, rfl, rfl, Nat.le_of_ble_eq_true rfl⟩

/-- Settles O1: the first byte gives the length, and the opcode map finds the instruction. -/
theorem decodeAfterEncode : Obligations.DecodeAfterEncode := by
  intro i rest wf
  obtain ⟨b, bs, hb, hn, -⟩ := encodedLength i
  have row : opRow (b :: bs ++ rest) = some i := hb ▸ opRow_encode wf rest
  have decoded := decode_of (bs := bs ++ rest) hn (by simp) row
  rw [hb]
  simpa using decoded

/-! ### What the opcode map answers is well formed, and its bytes are the encoding -/

/-- The bytes of `i` are the first of `bs`, and `i` is well formed. -/
def Reads (i : Instr) (bs : List Byte) : Prop := i.wf = true ∧ ∃ rest, bs = encode i ++ rest

theorem Reads.of {i : Instr} {bs : List Byte} (wf : i.wf = true) (rest : List Byte) (h : bs = encode i ++ rest) :
    Reads i bs := ⟨wf, rest, h⟩

/-- A nibble from its value. -/
theorem nibble_eq {h : BitVec 4} {k : Nat} (hk : h.toNat = k) : h = BitVec.ofNat 4 k := by
  rw [← hk, BitVec.ofNat_toNat, BitVec.setWidth_eq]

/-- Where the high nibble of byte 1 has a known value. -/
theorem Reads.row {i : Instr} {h l : BitVec 4} {bs : List Byte} {k : Nat} (hk : h.toNat = k)
    (r : Reads i (joinNib (BitVec.ofNat 4 k) l :: bs)) : Reads i (joinNib h l :: bs) := by
  rw [nibble_eq hk]
  exact r

/-- Where byte 2 is two register nibbles. -/
theorem Reads.nibbles {i : Instr} {b1 b2 : Byte} {bs : List Byte} (wf : i.wf = true) (rest : List Byte)
    (h : b1 :: joinNib (hiNib b2) (loNib b2) :: bs = encode i ++ rest) : Reads i (b1 :: b2 :: bs) := by
  rw [joinNib_hiNib_loNib] at h
  exact ⟨wf, rest, h⟩

theorem joinNib_pair_data : ∀ b : Byte, spaceOf (loNib b) = true →
    joinNib (hiNib b) (pairNib (pairOf (loNib b)) Space.data.bit) = b := by decide

theorem joinNib_pair_program : ∀ b : Byte, ¬ spaceOf (loNib b) = true →
    joinNib (hiNib b) (pairNib (pairOf (loNib b)) Space.program.bit) = b := by decide

/-- Where byte 2 is a register nibble and a pair nibble, whose bit 0 selects the memory (R68). -/
theorem Reads.pair {f : Space → Instr} {b1 b2 : Byte} {bs : List Byte} (rest : List Byte)
    (wf : ∀ m, (f m).wf = true)
    (h : ∀ m, b1 :: joinNib (hiNib b2) (pairNib (pairOf (loNib b2)) m.bit) :: bs = encode (f m) ++ rest) :
    Reads (if spaceOf (loNib b2) then f .data else f .program) (b1 :: b2 :: bs) := by
  split
  next data =>
    have hd := h .data
    rw [joinNib_pair_data b2 data] at hd
    exact ⟨wf .data, rest, hd⟩
  next program =>
    have hp := h .program
    rw [joinNib_pair_program b2 program] at hp
    exact ⟨wf .program, rest, hp⟩

theorem wf_loadStep (m : Space) (up : Bool) (d : WReg) (p : Pair) : (m.loadStep up d p).wf = true := by
  cases m <;> cases up <;> rfl

theorem wf_load {m : Space} {d : WReg} {f : MemForm} (h : ∀ o p, f = .xl o p → p ≠ 0#3) :
    (m.load d f).wf = true := by
  cases f with
  | irr | xs | da => cases m <;> rfl
  | xl o p => cases m <;> exact bne_iff_ne.2 (h o p rfl)

theorem wf_store {m : Space} {r : WReg} {f : MemForm} (h : ∀ o p, f = .xl o p → p ≠ 0#3) :
    (m.store f r).wf = true := by
  cases f with
  | irr | xs | da => cases m <;> rfl
  | xl o p => cases m <;> exact bne_iff_ne.2 (h o p rfl)

theorem operandBytes_da (m : Space) (r : WReg) (a : Addr) :
    MemForm.operandBytes m r (.da a) = [joinNib r (pairNib 0#3 m.bit), loByte a, hiByte a] := rfl

theorem operandBytes_xl (m : Space) (r : WReg) (o : Addr) (p : Pair) :
    MemForm.operandBytes m r (.xl o p) = [joinNib r (pairNib p m.bit), loByte o, hiByte o] := rfl

/-- A pair nibble of pair 0 is that of a DA form, any other that of an XL form (R68). -/
def farForm (b2 : Byte) (a : Addr) : MemForm :=
  if pairOf (loNib b2) = 0#3 then .da a else .xl a (pairOf (loNib b2))

theorem farForm_pair {b2 : Byte} {a o : Addr} {p : Pair} (h : farForm b2 a = .xl o p) : p ≠ 0#3 := by
  unfold farForm at h
  split at h
  next => cases h
  next hp => cases h; exact hp

theorem operandBytes_farForm (m : Space) (r : WReg) (b2 b3 b4 : Byte) :
    (farForm b2 (word16 b4 b3)).operandBytes m r =
      [joinNib r (pairNib (pairOf (loNib b2)) m.bit), b3, b4] := by
  unfold farForm
  split
  next hp => rw [operandBytes_da, hp, loByte_word16, hiByte_word16]
  next => rw [operandBytes_xl, loByte_word16, hiByte_word16]

section Rows
variable {h : BitVec 4} {b1 b2 b3 b4 : Byte} {i : Instr}

theorem col0_inv (row : col0 h b2 = some i) : Reads i [joinNib h 0x0#4, b2, b3, b4] := by
  unfold col0 at row
  split at row <;> cases row
  all_goals exact .row ‹_› (.of rfl _ rfl)

theorem col1_inv (row : col1 h b2 = some i) : Reads i [joinNib h 0x1#4, b2, b3, b4] := by
  unfold col1 at row
  split at row <;> cases row
  all_goals exact .row ‹_› (.of rfl _ rfl)

theorem col2_inv (row : col2 h b2 = some i) : Reads i [joinNib h 0x2#4, b2, b3, b4] := by
  unfold col2 at row
  split at row <;> cases row
  case h_11.refl hk =>
    exact .row hk <| .pair (f := fun m => m.loadStep false (hiNib b2) (pairOf (loNib b2))) [b3, b4]
      (fun m => wf_loadStep m _ _ _) fun m => by rw [(encode_memStep m _ _).1]; rfl
  all_goals exact .row ‹_› (.nibbles rfl _ rfl)

theorem col3_inv (row : col3 h b2 = some i) : Reads i [joinNib h 0x3#4, b2, b3, b4] := by
  unfold col3 at row
  split at row <;> cases row
  case h_11.refl hk =>
    exact .row hk <| .pair (f := fun m => m.load (hiNib b2) (.irr (pairOf (loNib b2)))) [b3, b4]
      (fun m => wf_load (by simp)) fun m => by rw [encode_memLoad]; rfl
  case h_12.refl hk =>
    exact .row hk <| .pair (f := fun m => m.store (.irr (pairOf (loNib b2))) (hiNib b2)) [b3, b4]
      (fun m => wf_store (by simp)) fun m => by rw [encode_memStore]; rfl
  case h_13.refl hk =>
    exact .row hk <| .pair (f := fun m => m.loadStep true (hiNib b2) (pairOf (loNib b2))) [b3, b4]
      (fun m => wf_loadStep m _ _ _) fun m => by rw [(encode_memStep m _ _).2]; rfl
  all_goals exact .row ‹_› (.nibbles rfl _ rfl)

theorem col4_inv (row : col4 h b2 b3 = some i) : Reads i [joinNib h 0x4#4, b2, b3, b4] := by
  unfold col4 at row
  split at row <;> cases row
  all_goals exact .row ‹_› (.of rfl _ rfl)

theorem col5_inv (row : col5 h b2 b3 = some i) : Reads i [joinNib h 0x5#4, b2, b3, b4] := by
  unfold col5 at row
  split at row <;> cases row
  all_goals exact .row ‹_› (.of rfl _ rfl)

theorem col6_inv (row : col6 h b2 b3 = some i) : Reads i [joinNib h 0x6#4, b2, b3, b4] := by
  unfold col6 at row
  split at row <;> cases row
  case h_13.refl hk =>
    exact .row hk <| .of rfl [b4] (by simp [encode, joinNib])
  all_goals exact .row ‹_› (.of rfl _ rfl)

theorem col7_row10 : col7 0xA#4 b2 b3 b4 =
    some (if spaceOf (loNib b2) then Space.data.load (hiNib b2) (farForm b2 (word16 b4 b3))
      else Space.program.load (hiNib b2) (farForm b2 (word16 b4 b3))) := by
  unfold col7 farForm
  simp only [BitVec.toNat_ofNat, Nat.reducePow, Nat.reduceMod]
  split <;> rfl

theorem col7_load (row : col7 0xA#4 b2 b3 b4 = some i) : Reads i [0xA7#8, b2, b3, b4] := by
  have bytes : ∀ m : Space, encode (m.load (hiNib b2) (farForm b2 (word16 b4 b3))) =
      [0xA7#8, joinNib (hiNib b2) (pairNib (pairOf (loNib b2)) m.bit), b3, b4] := fun m => by
    rw [encode_memLoad, operandBytes_farForm]
    unfold farForm
    split <;> rfl
  have reads := Reads.pair (f := fun m => m.load (hiNib b2) (farForm b2 (word16 b4 b3))) []
    (fun _ => wf_load fun _ _ => farForm_pair) fun m => (bytes m).symm.trans (List.append_nil _).symm
  rw [col7_row10] at row
  cases row
  exact reads

theorem col7_row11 : col7 0xB#4 b2 b3 b4 =
    some (if spaceOf (loNib b2) then Space.data.store (farForm b2 (word16 b4 b3)) (hiNib b2)
      else Space.program.store (farForm b2 (word16 b4 b3)) (hiNib b2)) := by
  unfold col7 farForm
  simp only [BitVec.toNat_ofNat, Nat.reducePow, Nat.reduceMod]
  split <;> rfl

theorem col7_store (row : col7 0xB#4 b2 b3 b4 = some i) : Reads i [0xB7#8, b2, b3, b4] := by
  have bytes : ∀ m : Space, encode (m.store (farForm b2 (word16 b4 b3)) (hiNib b2)) =
      [0xB7#8, joinNib (hiNib b2) (pairNib (pairOf (loNib b2)) m.bit), b3, b4] := fun m => by
    rw [encode_memStore, operandBytes_farForm]
    unfold farForm
    split <;> rfl
  have reads := Reads.pair (f := fun m => m.store (farForm b2 (word16 b4 b3)) (hiNib b2)) []
    (fun _ => wf_store fun _ _ => farForm_pair) fun m => (bytes m).symm.trans (List.append_nil _).symm
  rw [col7_row11] at row
  cases row
  exact reads

theorem col7_inv (row : col7 h b2 b3 b4 = some i) : Reads i [joinNib h 0x7#4, b2, b3, b4] := by
  have row' := row
  unfold col7 at row'
  split at row'
  case h_3 hk => rw [nibble_eq hk] at row ⊢; exact col7_load row
  case h_4 hk => rw [nibble_eq hk] at row ⊢; exact col7_store row
  case h_7 hk =>
    cases row'
    exact .row hk <| .pair (f := fun m => m.load (hiNib b2) (.xs b3 (pairOf (loNib b2)))) [b4]
      (fun m => wf_load (by simp)) fun m => by rw [encode_memLoad]; rfl
  case h_8 hk =>
    cases row'
    exact .row hk <| .pair (f := fun m => m.store (.xs b3 (pairOf (loNib b2))) (hiNib b2)) [b4]
      (fun m => wf_store (by simp)) fun m => by rw [encode_memStore]; rfl
  case h_9 => cases row'
  all_goals
    cases row'
    exact .row ‹_› (.nibbles rfl _ rfl)

theorem colF_inv (row : colF h = some i) : Reads i [joinNib h 0xF#4, b2, b3, b4] := by
  unfold colF at row
  split at row <;> cases row
  all_goals exact .row ‹_› (.of rfl _ rfl)

/-- Whatever row the opcode map answers, in any column, is well formed and its encoding stands at the bytes. -/
theorem decodeOp_inv (row : decodeOp b1 b2 b3 b4 = some i) : Reads i [b1, b2, b3, b4] := by
  rw [← joinNib_hiNib_loNib b1] at row ⊢
  unfold decodeOp at row
  rw [hiNib_joinNib] at row
  simp only [loNib_joinNib] at row
  split at row
  case h_1 hk => rw [nibble_eq hk]; exact col0_inv row
  case h_2 hk => rw [nibble_eq hk]; exact col1_inv row
  case h_3 hk => rw [nibble_eq hk]; exact col2_inv row
  case h_4 hk => rw [nibble_eq hk]; exact col3_inv row
  case h_5 hk => rw [nibble_eq hk]; exact col4_inv row
  case h_6 hk => rw [nibble_eq hk]; exact col5_inv row
  case h_7 hk => rw [nibble_eq hk]; exact col6_inv row
  case h_8 hk => rw [nibble_eq hk]; exact col7_inv row
  case h_9 hk => rw [nibble_eq hk]; cases row; exact .of rfl _ rfl
  case h_10 hk => rw [nibble_eq hk]; cases row; exact .of rfl _ rfl
  case h_11 => cases row
  case h_12 hk =>
    rw [nibble_eq hk]; cases row
    exact .of rfl [b3, b4] (by simp [encode, condBits_condOfBits])
  case h_13 hk => rw [nibble_eq hk]; cases row; exact .of rfl _ rfl
  case h_14 hk =>
    rw [nibble_eq hk]; cases row
    exact .of rfl [b4] (by simp [encode, condBits_condOfBits])
  case h_15 hk => rw [nibble_eq hk]; cases row; exact .of rfl _ rfl
  case h_16 hk =>
    have last : (loNib b1).toNat = 15 := by
      have := (loNib b1).isLt
      grind
    rw [nibble_eq last]
    exact colF_inv row

end Rows

/-- A list padded to four bytes begins as the list does, as far as the list goes. -/
theorem take_padded (b : Byte) (bs : List Byte) {n : Nat} (h : n ≤ bs.length + 1) (h4 : n ≤ 4) :
    [b, bs.getD 0 0#8, bs.getD 1 0#8, bs.getD 2 0#8].take n = (b :: bs).take n := by
  match bs with
  | [] => exact List.take_append_of_le_length (l₁ := [b]) h
  | [x] => exact List.take_append_of_le_length (l₁ := [b, x]) h
  | [x, y] => exact List.take_append_of_le_length (l₁ := [b, x, y]) h
  | x :: y :: z :: more => exact (List.take_append_of_le_length (l₁ := [b, x, y, z]) h4).symm

/-- Settles O2: the row of the opcode map tells the encoding, and the first byte how much of it was taken. -/
theorem encodeAfterDecode : Obligations.EncodeAfterDecode := by
  intro bs rest i decoded
  obtain ⟨b, bs, n, rfl, hn, hlen, row, rfl⟩ := decode_inv decoded
  obtain ⟨wf, more, bytes⟩ := decodeOp_inv row
  refine ⟨wf, ?_⟩
  obtain ⟨c, cs, hc, hm, -⟩ := encodedLength i
  rw [hc] at bytes
  obtain ⟨rfl, -⟩ := List.cons.inj bytes
  rw [hn] at hm
  obtain rfl := Option.some.inj hm
  have taken : (b :: bs).take (cs.length + 1) = b :: cs := by
    rw [← take_padded b bs hlen (opLength_range b _ hn).2, bytes]
    simp
  calc b :: bs = (b :: bs).take (cs.length + 1) ++ (b :: bs).drop (cs.length + 1) := (List.take_append_drop ..).symm
    _ = encode i ++ bs.drop (cs.length + 1 - 1) := by rw [taken, hc]; rfl

/-! ### The first byte decides -/

section Rows
variable (h : BitVec 4) (b1 b2 b3 b4 : Byte)

theorem col0_isSome : (col0 h b2).isSome = (col0 h 0#8).isSome := by unfold col0; split <;> rfl
theorem col1_isSome : (col1 h b2).isSome = (col1 h 0#8).isSome := by unfold col1; split <;> rfl
theorem col2_isSome : (col2 h b2).isSome = (col2 h 0#8).isSome := by unfold col2; split <;> rfl
theorem col3_isSome : (col3 h b2).isSome = (col3 h 0#8).isSome := by unfold col3; split <;> rfl
theorem col4_isSome : (col4 h b2 b3).isSome = (col4 h 0#8 0#8).isSome := by unfold col4; split <;> rfl
theorem col5_isSome : (col5 h b2 b3).isSome = (col5 h 0#8 0#8).isSome := by unfold col5; split <;> rfl
theorem col6_isSome : (col6 h b2 b3).isSome = (col6 h 0#8 0#8).isSome := by unfold col6; split <;> rfl
theorem col7_isSome : (col7 h b2 b3 b4).isSome = (col7 h 0#8 0#8 0#8).isSome := by
  unfold col7
  split <;> simp only [apply_ite Option.isSome, Option.isSome_some, ite_self, Option.isSome_none]

/-- Whether the opcode map has a row is the first byte's matter. -/
theorem decodeOp_isSome : (decodeOp b1 b2 b3 b4).isSome = (decodeOp b1 0#8 0#8 0#8).isSome := by
  unfold decodeOp
  split
  case h_1 => exact col0_isSome ..
  case h_2 => exact col1_isSome ..
  case h_3 => exact col2_isSome ..
  case h_4 => exact col3_isSome ..
  case h_5 => exact col4_isSome ..
  case h_6 => exact col5_isSome ..
  case h_7 => exact col6_isSome ..
  case h_8 => exact col7_isSome ..
  all_goals rfl

end Rows

/-- The opcode map has a row for exactly the first bytes that have a length. -/
theorem opLength_isSome : ∀ b, (opLength b).isSome = (decodeOp b 0#8 0#8 0#8).isSome := by decide

/-- The first bytes without a length are the 58 of R71. -/
theorem opLength_eq_none : ∀ b, opLength b = none ↔ b ∈ undefinedOpcodes := by decide

/-- Where a first byte has a length, every list of that many bytes decodes to an instruction of that length. -/
theorem decode_of_length {b : Byte} {n : Nat} (hn : opLength b = some n) {rest : List Byte}
    (hl : n ≤ rest.length + 1) :
    ∃ i : Instr, i.length = n ∧ decode (b :: rest) = .instr i (rest.drop (n - 1)) := by
  have row : (decodeOp b (rest.getD 0 0#8) (rest.getD 1 0#8) (rest.getD 2 0#8)).isSome = true := by
    rw [decodeOp_isSome, ← opLength_isSome, hn]
    rfl
  obtain ⟨i, hi⟩ := Option.isSome_iff_exists.1 row
  have decoded := decode_of hn hl hi
  refine ⟨i, ?_, decoded⟩
  have bytes := congrArg List.length (encodeAfterDecode _ _ _ decoded).2
  simp only [List.length_cons, List.length_append, List.length_drop] at bytes
  have := (opLength_range b n hn).1
  unfold Instr.length
  omega

/-- Settles O4: the first byte decides whether there is a length, and which. -/
theorem firstByteGivesLength : Obligations.FirstByteGivesLength := by
  refine ⟨rfl, by decide, fun b => ?_⟩
  cases hn : opLength b with
  | none => exact .inl ⟨(opLength_eq_none b).1 hn, decode_none hn⟩
  | some n =>
    obtain ⟨h1, h4⟩ := opLength_range b n hn
    refine .inr ⟨fun hb => ?_, n, h1, h4, fun rest hl => ?_, fun rest hl => decode_of_length hn hl⟩
    · rw [(opLength_eq_none b).2 hb] at hn
      cases hn
    · simp only [decode, hn]
      exact if_pos hl

/-- Settles O3, by running the decoder on each word. -/
theorem decodeSpecWords : Obligations.DecodeSpecWords := by
  unfold Obligations.DecodeSpecWords
  decide

end Sys2Proof.Claims
end

section
/-! PROOFS. The step at an instruction boundary: which boundary it is, the fetch of the bytes at pc, and reset
(10_state R14, R15; 20_memory R50; 60_exceptions R184). -/

namespace Sys2Proof.Machine

open Sys2Proof Sys2Proof.Claims

/-! ### The boundary that a step is at -/

theorem step_of_reset {s : State} (h : s.resetAsserted = true) : step s = countStep (.next (takeReset s)) := by
  simp only [step, boundary, h, if_true]

theorem step_of_fetchesNext {s : State} (h : FetchesNext s) : step s = countStep (runInstr s) := by
  obtain ⟨running, noReset, noInterrupt⟩ := h
  have quiet : (s.interruptsEnabled && !s.pending.isEmpty) = false := by
    rcases noInterrupt with h | h <;> simp [h]
  simp [step, boundary, runningBoundary, running, noReset, quiet]

theorem step_halted {s : State} (halted : s.runState ≠ .running) (noReset : s.resetAsserted = false) :
    step s = countStep (haltedBoundary s) := by
  unfold step boundary
  rw [noReset, if_neg Bool.false_ne_true]
  cases h : s.runState with
  | running => exact absurd h halted
  | idle => rfl
  | stop => rfl

theorem releasing_iff (s : State) : s.releasing = true ↔ Released s := by
  unfold State.releasing Released
  cases s.runState <;> simp

/-- An interrupt that is taken is taken in the Running state, whichever state the request found. -/
theorem step_of_takesInterrupt {s : State} (h : TakesInterrupt s) :
    step s = countStep (finish (takeInterrupt { s with runState := .running })) := by
  obtain ⟨noReset, enabled, request⟩ := h
  by_cases running : s.runState = .running
  · have pending : s.pending ≠ [] := by
      rcases request with ⟨-, h⟩ | h
      · exact h
      · simp [Released, running] at h
    have same : ({ s with runState := .running } : State) = s := by rw [← running]
    rw [same]
    simp [step, boundary, runningBoundary, running, noReset, enabled, pending]
  · have released : s.releasing = true :=
      (releasing_iff s).2 (request.resolve_left fun h => running h.1)
    rw [step_halted running noReset]
    simp only [haltedBoundary, released, enabled, if_true]

/-! ### The fetch -/

theorem fetchByte_ok {s : State} {a : Addr} {b : Byte} (h : Fetchable s a b) : s.fetchByte a = .ok b := by
  obtain ⟨inRange, unmodified, rfl⟩ := h
  unfold State.fetchByte
  rw [pmLoad_ok inRange, ok_bind, if_neg (by simpa using unmodified)]

theorem fetchByte_outOfRange {s : State} {a : Addr} (h : s.cfg.pmSize.val ≤ a.toNat) :
    s.fetchByte a = .error (.addressOutOfRange a) := by
  unfold State.fetchByte State.pmLoad
  rw [if_neg (Nat.not_lt.2 h), error_bind]

theorem fetchByte_modified {s : State} {a : Addr} (h : a.toNat < s.cfg.pmSize.val)
    (hw : a.toNat ∈ s.pmWritten) : s.fetchByte a = .error (.fetchOfModifiedCode a) := by
  unfold State.fetchByte
  rw [pmLoad_ok h, ok_bind, if_pos (by simpa using hw)]

theorem addr_succ (a : Addr) (k : Nat) : a + BitVec.ofNat 16 (k + 1) = a + 1#16 + BitVec.ofNat 16 k := by
  rw [Nat.add_comm, BitVec.ofNat_add, BitVec.add_assoc]

theorem addr_zero (a : Addr) : a + BitVec.ofNat 16 0 = a := BitVec.add_zero a

theorem fetchBytes_ok {s : State} {bs : List Byte} {a : Addr}
    (h : ∀ k, ∀ hk : k < bs.length, Fetchable s (a + BitVec.ofNat 16 k) bs[k]) :
    s.fetchBytes bs.length a = .ok bs := by
  induction bs generalizing a with
  | nil => rfl
  | cons b bs ih =>
    have first : Fetchable s a b := addr_zero a ▸ h 0 (Nat.succ_pos _)
    have rest : s.fetchBytes bs.length (a + 1#16) = .ok bs := ih fun k hk => by
      rw [← addr_succ]
      exact h (k + 1) (by simpa using hk)
    simp only [List.length_cons, State.fetchBytes]
    rw [fetchByte_ok first, ok_bind, rest, ok_bind]

/-- A fetch of several bytes stops at the first one that stops. -/
theorem fetchBytes_stop {s : State} {bs : List Byte} {a : Addr} {k : Nat} {e : Fault} (hk : k < bs.length)
    (ok : ∀ j, ∀ h : j < bs.length, j < k → Fetchable s (a + BitVec.ofNat 16 j) bs[j])
    (stop : s.fetchByte (a + BitVec.ofNat 16 k) = .error e) : s.fetchBytes bs.length a = .error e := by
  induction bs generalizing a k with
  | nil => exact absurd hk (Nat.not_lt_zero k)
  | cons b bs ih =>
    simp only [List.length_cons, State.fetchBytes]
    cases k with
    | zero =>
      rw [addr_zero] at stop
      rw [stop, error_bind]
    | succ k =>
      have first : Fetchable s a b := addr_zero a ▸ ok 0 (Nat.succ_pos _) (Nat.succ_pos _)
      have rest : s.fetchBytes bs.length (a + 1#16) = .error e := by
        refine ih (k := k) (by simpa using hk) (fun j hj hjk => ?_) (by rwa [← addr_succ])
        rw [← addr_succ]
        exact ok (j + 1) (by simpa using hj) (by omega)
      rw [fetchByte_ok first, ok_bind, rest, error_bind]

/-- The instruction at pc is the one whose bytes stand there. -/
theorem fetchInstr_ok {s : State} {i : Instr} (wf : i.wf = true) (h : BytesAtPc s (encode i)) :
    s.fetchInstr = .ok i := by
  obtain ⟨b, bs, hb, hn, -⟩ := encodedLength i
  have decoded : decode (b :: bs) = .instr i [] := by
    have := decodeAfterEncode i [] wf
    rwa [hb, List.append_nil] at this
  rw [hb] at h
  have first : Fetchable s s.pc b := addr_zero s.pc ▸ h 0 (Nat.succ_pos _)
  have rest : s.fetchBytes bs.length (s.pc + 1#16) = .ok bs := fetchBytes_ok fun k hk => by
    rw [← addr_succ]
    exact h (k + 1) (by simpa using hk)
  unfold State.fetchInstr
  rw [fetchByte_ok first, ok_bind]
  simp only [hn, Nat.add_sub_cancel]
  rw [rest, ok_bind]
  simp only [decoded]

/-- The fetch stops at the first byte of the instruction at pc that stops. -/
theorem fetchInstr_stop {s : State} {i : Instr} {k : Nat} {e : Fault} (hk : k < (encode i).length)
    (ok : ∀ j, ∀ h : j < (encode i).length, j < k → Fetchable s (s.pc + BitVec.ofNat 16 j) (encode i)[j])
    (stop : s.fetchByte (s.pc + BitVec.ofNat 16 k) = .error e) : s.fetchInstr = .error e := by
  obtain ⟨b, bs, hb, hn, -⟩ := encodedLength i
  simp only [hb] at hk ok
  unfold State.fetchInstr
  cases k with
  | zero =>
    rw [addr_zero] at stop
    rw [stop, error_bind]
  | succ k =>
    have first : Fetchable s s.pc b := addr_zero s.pc ▸ ok 0 (Nat.succ_pos _) (Nat.succ_pos _)
    have rest : s.fetchBytes bs.length (s.pc + 1#16) = .error e := by
      refine fetchBytes_stop (k := k) (by simpa using hk) (fun j hj hjk => ?_) (by rwa [← addr_succ])
      rw [← addr_succ]
      exact ok (j + 1) (by simpa using hj) (by omega)
    rw [fetchByte_ok first, ok_bind]
    simp only [hn, Nat.add_sub_cancel]
    rw [rest, error_bind]

theorem fetchInstr_undefined {s : State} {b : Byte} (h : Fetchable s s.pc b) (hb : b ∈ undefinedOpcodes) :
    s.fetchInstr = .error (.illegalOpcode b) := by
  unfold State.fetchInstr
  rw [fetchByte_ok h, ok_bind]
  simp only [(opLength_eq_none b).2 hb]

theorem step_of_fetch {s : State} {i : Instr} (next : FetchesNext s) (h : s.fetchInstr = .ok i) :
    step s = countStep (exec i s) := by
  rw [step_of_fetchesNext next]
  simp only [runInstr, h]

theorem step_of_fetch_stop {s : State} {e : Fault} (next : FetchesNext s) (h : s.fetchInstr = .error e) :
    step s = .fault e := by
  rw [step_of_fetchesNext next]
  simp only [runInstr, h, countStep]

/-- Settles O6: the fetch finds the instruction, and the step runs it. -/
theorem stepRunsDecoded : Obligations.StepRunsDecoded := by
  intro s i wf next bytes
  rw [step_of_fetch next (fetchInstr_ok wf bytes)]
  cases exec i s <;> rfl

/-- Settles O7, from the three ways a fetch stops. -/
theorem stepStopsAtBadFetch : Obligations.StepStopsAtBadFetch := by
  refine ⟨fun s i k _ next hk ok => ⟨fun far => ?_, fun near written => ?_⟩, fun s b next h hb => ?_⟩
  · exact step_of_fetch_stop next (fetchInstr_stop hk ok (fetchByte_outOfRange far))
  · exact step_of_fetch_stop next (fetchInstr_stop hk ok (fetchByte_modified near written))
  · exact step_of_fetch_stop next (fetchInstr_undefined h hb)

/-! ### Halted steps, reset and the state after it -/

/-- A halted step without a releasing request leaves the state as it is. -/
theorem step_unreleased {s : State} (halted : s.runState ≠ .running) (noReset : s.resetAsserted = false)
    (h : ¬ Released s) : StepsTo s s := by
  unfold StepsTo
  rw [step_halted halted noReset]
  simp only [haltedBoundary, if_neg (mt (releasing_iff s).1 h), countStep]

/-- A masked releasing request wakes the CPU or not as IDLE_WAKE_WHEN_MASKED says (60_exceptions R194). -/
theorem step_masked {s : State} (halted : s.runState ≠ .running) (noReset : s.resetAsserted = false)
    (h : Released s) (masked : s.interruptsEnabled = false) :
    StepsTo s (if s.cfg.idleWakeWhenMasked then { s with runState := .running } else s) := by
  unfold StepsTo
  rw [step_halted halted noReset]
  simp only [haltedBoundary, (releasing_iff s).2 h, masked, if_true, if_neg Bool.false_ne_true]
  cases s.cfg.idleWakeWhenMasked <;> rfl

/-- Settles O52, from the two cases of a halted boundary that take no interrupt. -/
theorem haltedStep : Obligations.HaltedStep := fun _ halted noReset =>
  ⟨step_unreleased halted noReset, step_masked halted noReset⟩

theorem disableInterrupts_disables (s : State) : s.disableInterrupts.interruptsEnabled = false := by
  simp [State.disableInterrupts, State.interruptsEnabled]

theorem enableInterrupts_enables (s : State) : s.enableInterrupts.interruptsEnabled = true := by
  simp [State.enableInterrupts, State.interruptsEnabled]

theorem countStep_next (t : State) : countStep (.next t) = .next { t with tick := t.tick + 1 } := rfl

/-- What reset leaves as R210 gives it; of the registers it gives SYM.2 alone. -/
theorem takeReset_frame (s : State) :
    (takeReset s).runState = .running ∧ (takeReset s).pc = s.cfg.resetAddr ∧ (takeReset s).pending = [] ∧
      (takeReset s).cfg = s.cfg ∧ (takeReset s).pmWritten = [] ∧ (takeReset s).pm = s.pm ∧
      (takeReset s).dm = [] := by
  simp [takeReset, State.disableInterrupts]

/-- Settles O53: a step with the reset line asserted is the reset, in every run state. -/
theorem resetStep : Obligations.ResetStep := by
  intro s h
  obtain ⟨running, pc, pending, cfg, written, pm, -⟩ := takeReset_frame s
  refine ⟨takeReset s, (step_of_reset h).trans (countStep_next _), running, pc, ?_, pending, cfg, written,
    fun a => ?_⟩
  · exact disableInterrupts_disables _
  · simp only [State.pmByte, pm]

/-- Settles O54, by evaluating the reset state. -/
theorem resetState : Obligations.ResetState :=
  ⟨rfl, rfl, by simp [State.interruptsEnabled, State.reg, State.reset], rfl⟩

end Sys2Proof.Machine
end

section
/-! PROOFS. Register-file locations by class, the working registers and the addresses that their pairs form
(10_state R10, R11, R21, R27; 20_memory R44; 30_encoding R64, R65). -/

namespace Sys2Proof.Machine

open Sys2Proof Sys2Proof.Claims

/-- A read depends on the parameters, the step number and the byte stored at the location, and on no more. -/
theorem read_congr {s t : State} {a : Byte} (hc : t.cfg = s.cfg) (ht : t.tick = s.tick) (hr : t.reg a = s.reg a)
    (k : Nat) : t.read k a = s.read k a := by
  by_cases ha : a = flagsAddr
  · subst ha
    rw [read_flags, read_flags, State.flagsRead, State.flagsRead, hr, ht]
  · simp only [State.read, classOf_congr hc, ha, if_false, hr, ht]

theorem hiNib_flagsRead (s : State) (k : Nat) : hiNib (s.flagsRead k) = hiNib (s.reg flagsAddr) :=
  hiNib_joinNib _ _

theorem write_absent {s : State} {a v : Byte} (h : s.classOf a = .absent) :
    s.write a v = .error (.unimplementedRegister a) := by simp [State.write, h]

theorem after_ne {s : State} {a b v : Byte} (h : b ≠ a) : after s [(a, v)] b = s.reg b := by
  simp [after, lastWritten, Ne.symm h]

theorem after_self {s : State} {a v : Byte} (h : s.classOf a ≠ .platform) : after s [(a, v)] a = v := by
  simp [after, lastWritten, h]

theorem after_platform {s : State} {ws : List (Byte × Byte)} {a : Byte} (h : s.classOf a = .platform) :
    after s ws a = s.reg a := if_pos h

/-- Settles O8, from the reads of each class. -/
theorem registerReadByClass : Obligations.RegisterReadByClass := fun s k _ =>
  ⟨read_absent, read_ok_of_implemented k, read_storage k, _, read_flags s k, hiNib_flagsRead s k⟩

/-- Settles O9: a write is one register write, and a read after it follows from the byte stored. -/
theorem registerReadBack : Obligations.RegisterReadBack := by
  intro s a v
  refine ⟨write_absent, fun present => ?_⟩
  obtain ⟨t, ht, e⟩ := write_ok v present
  have stored : s.classOf a ≠ .platform → t.reg a = v := fun h => (e.writes.regs a).trans (after_self h)
  refine ⟨t, ht, fun k b hb => ?_, fun notFlags storage k => ?_, fun flags k => ?_, fun platform => ⟨fun k => ?_, ?_⟩⟩
  · exact read_congr e.control.cfg e.control.tick ((e.writes.regs b).trans (after_ne hb)) k
  · have here : t.classOf a = .plain ∨ t.classOf a = .control := by rwa [classOf_congr e.control.cfg]
    rw [read_storage k notFlags here, stored (by rcases storage with h | h <;> simp [h])]
  · subst flags
    exact ⟨_, read_flags t k, (hiNib_flagsRead t k).trans (congrArg hiNib (stored (by simp)))⟩
  · exact read_congr e.control.cfg e.control.tick ((e.writes.regs a).trans (after_platform platform)) k
  · rw [e.writes.outputs]
    simp [events, platform]

/-! ### Working registers and addresses -/

theorem wr_toNat (s : State) (n : WReg) : (s.wr n).toNat = (s.cfg.wrBase.toNat + n.toNat) % 256 := by
  have : n.toNat < 16 := n.isLt
  simp [State.wr, BitVec.toNat_add]

theorem wr_injective {s : State} {n m : WReg} (h : s.wr n = s.wr m) : n = m := by
  have e := congrArg BitVec.toNat h
  rw [wr_toNat, wr_toNat] at e
  have := n.isLt
  have := m.isLt
  have := s.cfg.wrBase.isLt
  apply BitVec.eq_of_toNat_eq
  omega

theorem addrXs_of_irr {s : State} {p : Pair} {A : Addr} (h : s.addrIrr p = .ok A) (xs : Byte) :
    s.addrXs xs p = .ok (A + xs.signExtend 16) := by
  unfold State.addrXs
  rw [h, ok_bind]

theorem addrXl_of_irr {s : State} {p : Pair} {A : Addr} (h : s.addrIrr p = .ok A) (xl : Addr) :
    s.addrXl xl p = .ok (A + xl) := by
  unfold State.addrXl
  rw [h, ok_bind]

/-- Settles O10: the pair of an Irr operand is two working registers, which are always there. -/
theorem workingRegistersAndAddresses : Obligations.WorkingRegistersAndAddresses := by
  intro s
  refine ⟨fun n => ⟨wr_toNat s n, (classOf_wr s n).symm⟩, fun n m => wr_injective,
    fun p => ⟨rfl, pairAddr_add_one s p⟩, fun p => ?_⟩
  obtain ⟨hi, hh⟩ := read_ok_of_implemented 0 (implemented_pair s p).1
  obtain ⟨lo, hl⟩ := read_ok_of_implemented 1 (implemented_pair s p).2
  have pair : s.addrIrr p = .ok (word16 hi lo) := readPair_ok hh hl
  rw [pairAddr_add_one] at hl
  exact ⟨hi, lo, hh, hl, pair, addrXs_of_irr pair, addrXl_of_irr pair⟩

end Sys2Proof.Machine
end

section
/-! PROOFS. The two-operand and one-operand instructions, from the one meaning that each form set has: where the
operands can be read, a writer of its destination computes the result and flags of its own function, and a test sets
the flags alone (30_encoding R75, R76; 41_arithmetic, 42_logic, 45_rotate_shift). -/

namespace Sys2Proof.Machine

open Sys2Proof Sys2Proof.Claims

/-- An instruction that computes its destination from two operands that can be read. -/
theorem computes_of_binop {i : Instr} {s : State} {alu : Byte → Byte → Flags → Byte × Flags} {len : Nat}
    {dst v d r : Byte} {src : Except Fault Byte} {c z n o : Bool}
    (hexec : exec i s = finish (binop alu len dst src s)) (ha : dst ≠ flagsAddr) (hv : src = .ok v)
    (hd : s.read 2 dst = .ok d) (result : alu d v s.flags = (r, ⟨c, z, n, o⟩)) :
    Computes i s len dst r c z n o := by
  obtain ⟨t, ht, effect⟩ := binop_ok (f := alu) (len := len) ha hv hd
  rw [result] at effect
  exact ⟨t, _, hexec.trans (finish_ok ht), effect, packFlags_flagsByte s _⟩

/-- An instruction that computes its one operand anew. -/
theorem computes_of_unop {i : Instr} {s : State} {alu : Byte → Flags → Byte × Flags} {len : Nat}
    {dst d r : Byte} {c z n o : Bool} (hexec : exec i s = finish (unop alu len dst s)) (ha : dst ≠ flagsAddr)
    (hd : s.read 2 dst = .ok d) (result : alu d s.flags = (r, ⟨c, z, n, o⟩)) :
    Computes i s len dst r c z n o := by
  obtain ⟨t, ht, effect⟩ := unop_ok (f := alu) (len := len) ha hd
  rw [result] at effect
  exact ⟨t, _, hexec.trans (finish_ok ht), effect, packFlags_flagsByte s _⟩

/-- A one-operand instruction at the operand location of its form. -/
theorem exec_op1_at {op : Op1} {f : Form1} {s : State} {a : Byte} (h : f.loc s = .ok a) :
    exec (op.instr f) s = finish (op.run a s) := by
  rw [exec_op1, h, ok_bind]

/-! ### Addition and subtraction -/

theorem aluAdd_eq (d v : Byte) (f : Flags) :
    let sum := d.toNat + v.toNat
    let r := BitVec.ofNat 8 sum
    aluAdd d v f = (r, ⟨decide (256 ≤ sum), decide (r = 0#8), r.msb, d.msb == v.msb && r.msb != d.msb⟩) := rfl

theorem aluAdc_eq (d v : Byte) (f : Flags) :
    let sum := d.toNat + v.toNat + (if f.c then 1 else 0)
    let r := BitVec.ofNat 8 sum
    aluAdc d v f = (r, ⟨decide (256 ≤ sum), decide (r = 0#8), r.msb, d.msb == v.msb && r.msb != d.msb⟩) := by
  obtain ⟨c, z, n, o⟩ := f
  cases c <;> rfl

theorem aluSub_eq (d v : Byte) (f : Flags) :
    let diff : Int := (d.toNat : Int) - v.toNat
    let r := BitVec.ofInt 8 diff
    aluSub d v f = (r, ⟨decide (diff < 0), decide (r = 0#8), r.msb, d.msb != v.msb && r.msb == v.msb⟩) := by
  intro diff r
  have noBorrow : (d.toNat : Int) - v.toNat - (false.toNat : Nat) = diff := Int.sub_zero _
  simp only [aluSub, sub8, noBorrow]
  rfl

theorem aluSbc_eq (d v : Byte) (f : Flags) :
    let diff : Int := (d.toNat : Int) - v.toNat - (if f.c then 1 else 0)
    let r := BitVec.ofInt 8 diff
    aluSbc d v f = (r, ⟨decide (diff < 0), decide (r = 0#8), r.msb, d.msb != v.msb && r.msb == v.msb⟩) := by
  obtain ⟨c, z, n, o⟩ := f
  cases c <;> rfl

/-- Settles O11: ADD writes its destination with the result and flags of the byte sum. -/
theorem addResult : Obligations.AddResult := fun s f v d ha hv hd =>
  computes_of_binop (exec_op2 .add f s) ha hv hd (aluAdd_eq d v s.flags)

/-- Settles O12: ADC is ADD with the old C added. -/
theorem adcResult : Obligations.AdcResult := fun s f v d ha hv hd =>
  computes_of_binop (exec_op2 .adc f s) ha hv hd (aluAdc_eq d v s.flags)

/-- Settles O13: SUB writes its destination with the result and flags of the byte difference. -/
theorem subResult : Obligations.SubResult := fun s f v d ha hv hd =>
  computes_of_binop (exec_op2 .sub f s) ha hv hd (aluSub_eq d v s.flags)

/-- Settles O14: SBC is SUB with the old C subtracted. -/
theorem sbcResult : Obligations.SbcResult := fun s f v d ha hv hd =>
  computes_of_binop (exec_op2 .sbc f s) ha hv hd (aluSbc_eq d v s.flags)

/-- Settles O15: CP is the test that the subtraction makes, and its bytes are those of row A. -/
theorem cpResult : Obligations.CpResult := fun s f =>
  ⟨encode_op2 .cp f, fun v d hv hd => setsFlags_of_testop (exec_op2 .cp f s) hv hd
    (congrArg Prod.snd (aluSub_eq d v s.flags))⟩

/-- Settles O16: INC and DEC at the operand location of their form, and INC at a working register. -/
theorem incDecResult : Obligations.IncDecResult :=
  ⟨fun _ _ _ _ hl ha hd => ⟨computes_of_unop (exec_op1_at (op := .inc) hl) ha hd rfl,
      computes_of_unop (exec_op1_at (op := .dec) hl) ha hd rfl⟩,
    fun _ => rfl, fun s n _ ha hd => computes_of_unop (exec_inc_r n s) ha hd rfl⟩

/-- The signed value of a byte in terms of its unsigned one and its sign. -/
theorem toInt_eq_msb (a : Byte) : a.toInt = (a.toNat : Int) - (if a.msb then 256 else 0) := by
  rw [BitVec.toInt_eq_msb_cond]
  split <;> simp

theorem msb_iff (a : Byte) : a.msb = decide (128 ≤ a.toNat) := BitVec.msb_eq_decide a

/-- V of a sum: with the operands and the result in their unsigned values, both sides are linear arithmetic. -/
theorem add8_ovf (a b : Byte) (c : Bool) :
    (add8 a b c).ovf = true ↔
      (a.toInt + b.toInt + (if c then 1 else 0) < -128 ∨ 127 < a.toInt + b.toInt + (if c then 1 else 0)) := by
  have ha := a.isLt
  have hb := b.isLt
  simp only [add8, toInt_eq_msb, msb_iff, BitVec.toNat_ofNat]
  cases c <;> simp <;> grind

/-- V of a difference, in the same terms. -/
theorem sub8_ovf (a b : Byte) (c : Bool) :
    (sub8 a b c).ovf = true ↔
      (a.toInt - b.toInt - (if c then 1 else 0) < -128 ∨ 127 < a.toInt - b.toInt - (if c then 1 else 0)) := by
  have ha := a.isLt
  have hb := b.isLt
  simp only [sub8, toInt_eq_msb, msb_iff, BitVec.toNat_ofInt]
  cases c <;> simp <;> grind

/-- Settles O17, for the sum and for the difference. -/
theorem overflowIsSignedRange : Obligations.OverflowIsSignedRange := fun a b c => ⟨add8_ovf a b c, sub8_ovf a b c⟩

/-! ### Multiple precision -/

theorem word16_toNat (h l : Byte) : (word16 h l).toNat = 256 * h.toNat + l.toNat := by
  have := l.isLt
  rw [word16, BitVec.toNat_append, ← Nat.shiftLeft_add_eq_or_of_lt this, Nat.shiftLeft_eq]
  omega

theorem loByte_toNat (a : Addr) : (loByte a).toNat = a.toNat % 256 := by
  simp [loByte]

theorem hiByte_toNat (a : Addr) : (hiByte a).toNat = a.toNat / 256 := by
  have := a.isLt
  simp [hiByte, Nat.shiftRight_eq_div_pow]
  omega

/-- ADD on the low bytes and ADC on the high bytes is the sum of the words (R121, R128). -/
theorem aluAdd_aluAdc (x y : Addr) (f : Flags) :
    let lo := aluAdd (loByte x) (loByte y) f
    let hi := aluAdc (hiByte x) (hiByte y) lo.2
    word16 hi.1 lo.1 = x + y ∧ hi.2.c = decide (65536 ≤ x.toNat + y.toNat) := by
  have hx := x.isLt
  have hy := y.isLt
  simp only [aluAdd_eq, aluAdc_eq, loByte_toNat, hiByte_toNat, decide_eq_true_eq, decide_eq_decide]
  refine ⟨BitVec.eq_of_toNat_eq ?_, ?_⟩
  · simp only [word16_toNat, BitVec.toNat_ofNat, BitVec.toNat_add]
    split <;> omega
  · split <;> omega

/-- SUB on the low bytes and SBC on the high bytes is the difference of the words (R126, R128). -/
theorem aluSub_aluSbc (x y : Addr) (f : Flags) :
    let lo := aluSub (loByte x) (loByte y) f
    let hi := aluSbc (hiByte x) (hiByte y) lo.2
    word16 hi.1 lo.1 = x - y ∧ hi.2.c = decide (x.toNat < y.toNat) := by
  have hx := x.isLt
  have hy := y.isLt
  simp only [aluSub_eq, aluSbc_eq, loByte_toNat, hiByte_toNat, decide_eq_true_eq, decide_eq_decide]
  refine ⟨BitVec.eq_of_toNat_eq ?_, ?_⟩
  · simp only [word16_toNat, BitVec.toNat_ofInt, BitVec.toNat_sub]
    split <;> omega
  · split <;> omega

/-- Settles O18, for the sum and for the difference. -/
theorem multiplePrecision : Obligations.MultiplePrecision := fun x y f =>
  ⟨aluAdd_aluAdc x y f, aluSub_aluSbc x y f⟩

/-! ### Logic and rotates -/

/-- Settles O19: the three functions are their bitwise operations. -/
theorem logicResult : Obligations.LogicResult := fun s f _ _ ha hv hd =>
  ⟨computes_of_binop (exec_op2 .and f s) ha hv hd rfl, computes_of_binop (exec_op2 .or f s) ha hv hd rfl,
    computes_of_binop (exec_op2 .xor f s) ha hv hd rfl⟩

/-- Settles O20: COM writes the complement of its one operand. -/
theorem comResult : Obligations.ComResult := fun _ _ _ _ hl ha hd =>
  computes_of_unop (exec_op1_at (op := .com) hl) ha hd rfl

/-- A byte shifted up, with the bit `x` entering at the bottom. -/
theorem shiftUp_bits : ∀ (d : Byte) (x : Bool), ((d <<< 1) ||| bit0 x).getLsbD 0 = x ∧
    ∀ n, n < 7 → ((d <<< 1) ||| bit0 x).getLsbD (n + 1) = d.getLsbD n := by decide

/-- A byte shifted down, with the bit `x` entering at the top. -/
theorem shiftDown_bits : ∀ (d : Byte) (x : Bool), ((d >>> 1) ||| (bit0 x <<< 7)).getLsbD 7 = x ∧
    ∀ n, n < 7 → ((d >>> 1) ||| (bit0 x <<< 7)).getLsbD n = d.getLsbD (n + 1) := by decide

/-- A byte shifted down with its sign kept is the floor of half of it. -/
theorem sra_bits : ∀ d : Byte, ((d >>> 1) ||| (d &&& 0x80#8)).getLsbD 7 = d.getLsbD 7 ∧
    (∀ n, n < 7 → ((d >>> 1) ||| (d &&& 0x80#8)).getLsbD n = d.getLsbD (n + 1)) ∧
    ((d >>> 1) ||| (d &&& 0x80#8)).toInt = d.toInt / 2 := by decide

/-- Settles O22: RL and RR shift the bit that leaves in at the other end. -/
theorem rotateResult : Obligations.RotateResult := by
  intro s f a d hl ha hd
  refine ⟨⟨_, (shiftUp_bits d (d.getLsbD 7)).1, (shiftUp_bits d (d.getLsbD 7)).2, ?_⟩,
    ⟨_, (shiftDown_bits d (d.getLsbD 0)).1, (shiftDown_bits d (d.getLsbD 0)).2, ?_⟩⟩
  · exact computes_of_unop (exec_op1_at (op := .rl) hl) ha hd rfl
  · exact computes_of_unop (exec_op1_at (op := .rr) hl) ha hd rfl

/-- Settles O23: RLC and RRC shift the old C in. -/
theorem rotateThroughCarryResult : Obligations.RotateThroughCarryResult := by
  intro s f a d hl ha hd
  refine ⟨⟨_, (shiftUp_bits d s.flags.c).1, (shiftUp_bits d s.flags.c).2, ?_⟩,
    ⟨_, (shiftDown_bits d s.flags.c).1, (shiftDown_bits d s.flags.c).2, ?_⟩⟩
  · exact computes_of_unop (exec_op1_at (op := .rlc) hl) ha hd rfl
  · exact computes_of_unop (exec_op1_at (op := .rrc) hl) ha hd rfl

/-- Settles O24: SRA keeps the sign, so it halves. -/
theorem sraResult : Obligations.SraResult := fun _ _ _ d hl ha hd =>
  have ⟨sign, bits, half⟩ := sra_bits d
  ⟨_, sign, bits, half, computes_of_unop (exec_op1_at (op := .sra) hl) ha hd rfl⟩

end Sys2Proof.Machine
end

section
/-! PROOFS. The flags of a comparison, and where the operands of the form sets and of LD stop an instruction
(43_program_control R140; 10_state R22, R27). -/

namespace Sys2Proof.Machine

open Sys2Proof Sys2Proof.Claims

/-! ### Conditions after a comparison -/

theorem flags_of_reg {s t : State} (h : t.reg flagsAddr = s.reg flagsAddr) : t.flags = s.flags := by
  simp only [State.flags, h]

/-- The flags after an effect whose last write at FLAGS packs them. -/
theorem flags_of_effect {s t : State} {f : Flags} {pc : Addr}
    (e : Effect s t [(flagsAddr, packFlags f (s.reg flagsAddr))] pc) : t.flags = f := by
  have stored : t.reg flagsAddr = (s.setFlags f).reg flagsAddr := by
    rw [e.writes.regs, after_self (by simp), State.setFlags, reg_setReg_self]
  rw [flags_of_reg stored, flags_setFlags]

/-- The flags of `d - v` compare the two: as signed numbers by S and V, as unsigned ones by C, and by Z. -/
theorem aluSub_compares (d v : Byte) (f : Flags) :
    let g := (aluSub d v f).2
    (g.s ^^ g.v) = decide (d.toInt < v.toInt) ∧ g.c = decide (d.toNat < v.toNat) ∧ g.z = decide (d = v) := by
  have hd := d.isLt
  have hv := v.isLt
  rw [aluSub_eq]
  refine ⟨?_, ?_, ?_⟩
  · simp only [toInt_eq_msb, msb_iff, BitVec.toNat_ofInt]
    grind
  · exact decide_eq_decide.2 (by omega)
  · refine decide_eq_decide.2 ⟨fun h => BitVec.eq_of_toNat_eq ?_, fun h => ?_⟩
    · have := congrArg BitVec.toNat h
      simp only [BitVec.toNat_ofInt, BitVec.toNat_ofNat] at this
      omega
    · rw [h, Int.sub_self]
      rfl

/-- The ten conditions that compare, from what the flags say. -/
theorem cond_compares {g : Flags} {d v : Byte} (hs : (g.s ^^ g.v) = decide (d.toInt < v.toInt))
    (hc : g.c = decide (d.toNat < v.toNat)) (hz : g.z = decide (d = v)) :
    cond .lt g = decide (d.toInt < v.toInt) ∧ cond .le g = decide (d.toInt ≤ v.toInt) ∧
      cond .ge g = decide (v.toInt ≤ d.toInt) ∧ cond .gt g = decide (v.toInt < d.toInt) ∧
      cond .c g = decide (d.toNat < v.toNat) ∧ cond .ule g = decide (d.toNat ≤ v.toNat) ∧
      cond .nc g = decide (v.toNat ≤ d.toNat) ∧ cond .ugt g = decide (v.toNat < d.toNat) ∧
      cond .z g = decide (d = v) ∧ cond .nz g = decide (d ≠ v) := by
  have signed : d = v ↔ d.toInt = v.toInt := BitVec.toInt_inj.symm
  have unsigned : d = v ↔ d.toNat = v.toNat := BitVec.toNat_inj.symm
  simp only [cond, hs, hc, hz]
  refine ⟨trivial, ?_, ?_, ?_, trivial, ?_, ?_, ?_, trivial, ?_⟩ <;> grind

/-- Settles O29: the flags that CP sets are those of the subtraction, which compare. -/
theorem compareConditions : Obligations.CompareConditions := by
  intro s f v d hv hd
  obtain ⟨t, ht, e⟩ := testop_ok (f := aluSub) (len := f.len) hv hd
  obtain ⟨hs, hc, hz⟩ := aluSub_compares d v s.flags
  refine ⟨t, (exec_op2 .cp f s).trans (finish_ok ht), ?_⟩
  rw [flags_of_effect e]
  exact cond_compares hs hc hz

/-- Settles O28, by evaluating each condition. -/
theorem conditionTable : Obligations.ConditionTable := by
  refine ⟨fun f => ⟨rfl, rfl, rfl, rfl, rfl, rfl, rfl, rfl, rfl, rfl, rfl, rfl, rfl, rfl, rfl, rfl⟩, fun n f => ?_⟩
  have negated : ∀ (n : BitVec 4) (c z m v : Bool),
      cond (condOfBits (n ^^^ 0x8#4)) ⟨c, z, m, v⟩ = !cond (condOfBits n) ⟨c, z, m, v⟩ := by decide
  exact negated n f.c f.z f.s f.v

/-! ### Flag writers whose destination is FLAGS -/

theorem binop_flags (alu : Byte → Byte → Flags → Byte × Flags) (len : Nat) (src : Except Fault Byte) (s : State) :
    binop alu len flagsAddr src s = .error .unpredictable := by
  unfold binop
  rw [guardFlags_flags, error_bind]

theorem unop_flags (alu : Byte → Flags → Byte × Flags) (len : Nat) (s : State) :
    unop alu len flagsAddr s = .error .unpredictable := by
  unfold unop
  rw [guardFlags_flags, error_bind]

theorem exec_op2_flags {op : Op2} {f : Form2} {s : State} (writes : op ∉ [.tcm, .tm, .cp])
    (h : f.dst s = flagsAddr) : exec (op.instr f) s = .fault .unpredictable := by
  obtain ⟨alu, run⟩ := Op2.run_of_writes writes
  rw [exec_op2, run, h]
  exact finish_error (binop_flags ..)

theorem exec_op1_flags {op : Op1} {f : Form1} {s : State} (writes : op ∉ [.pop, .push, .clr])
    (h : f.loc s = .ok flagsAddr) : exec (op.instr f) s = .fault .unpredictable := by
  obtain ⟨alu, run⟩ := Op1.run_of_writes writes
  rw [exec_op1_at h, run]
  exact finish_error (unop_flags ..)

/-- Settles O25: every writer of a destination and a flag guards against FLAGS first. -/
theorem flagWritersStopOnFlags : Obligations.FlagWritersStopOnFlags := by
  refine ⟨fun s op f writes h => exec_op2_flags ?_ h, fun s op f writes h => exec_op1_flags ?_ h, fun s n h => ?_⟩
  · cases op <;> simp at writes ⊢
  · cases op <;> simp at writes ⊢
  · rw [exec_inc_r, h]
    exact finish_error (unop_flags ..)

/-! ### Operands at locations that are not there -/

theorem binop_operand_stop {alu : Byte → Byte → Flags → Byte × Flags} {len : Nat} {dst : Byte}
    {src : Except Fault Byte} {s : State} {e : Fault} (ha : dst ≠ flagsAddr)
    (h : src = .error e ∨ ∃ v, src = .ok v ∧ s.read 2 dst = .error e) : binop alu len dst src s = .error e := by
  unfold binop
  rw [guardFlags_ok ha, ok_bind]
  rcases h with h | ⟨v, hv, hd⟩
  · rw [h, error_bind]
  · rw [hv, ok_bind, hd, error_bind]

theorem testop_operand_stop {alu : Byte → Byte → Flags → Byte × Flags} {len : Nat} {dst : Byte}
    {src : Except Fault Byte} {s : State} {e : Fault}
    (h : src = .error e ∨ ∃ v, src = .ok v ∧ s.read 2 dst = .error e) : testop alu len dst src s = .error e := by
  unfold testop
  rcases h with h | ⟨v, hv, hd⟩
  · rw [h, error_bind]
  · rw [hv, ok_bind, hd, error_bind]

theorem exec_op2_operand_stop {s : State} {op : Op2} {f : Form2} {e : Fault}
    (allowed : op ∈ [.tcm, .tm, .cp] ∨ f.dst s ≠ flagsAddr)
    (h : f.src s = .error e ∨ ∃ v, f.src s = .ok v ∧ s.read 2 (f.dst s) = .error e) :
    exec (op.instr f) s = .fault e := by
  rw [exec_op2]
  apply finish_error
  by_cases tests : op ∈ [.tcm, .tm, .cp]
  · obtain ⟨alu, run⟩ := Op2.run_of_tests tests
    rw [run]
    exact testop_operand_stop h
  · obtain ⟨alu, run⟩ := Op2.run_of_writes tests
    rw [run]
    exact binop_operand_stop (allowed.resolve_left tests) h

theorem unop_absent {alu : Byte → Flags → Byte × Flags} {len : Nat} {a : Byte} {s : State}
    (h : s.classOf a = .absent) : unop alu len a s = .error (.unimplementedRegister a) := by
  have notFlags : a ≠ flagsAddr := fun e => by simp [e] at h
  unfold unop
  rw [guardFlags_ok notFlags, ok_bind, read_absent h, error_bind]

theorem loadReg_absent {len : Nat} {a v : Byte} {src : Except Fault Byte} {s : State} (hv : src = .ok v)
    (h : s.classOf a = .absent) : loadReg len a src s = .error (.unimplementedRegister a) := by
  unfold loadReg
  rw [hv, ok_bind, write_absent h, error_bind]

theorem ne_sp_of_absent {s : State} {a : Byte} (h : s.classOf a = .absent) : a ≠ spAddr :=
  fun e => by simp [e] at h

theorem popTo_absent {a v : Byte} {s : State} (h : s.classOf a = .absent) (hv : s.read 1 s.sp = .ok v) :
    popTo a s = .error (.unimplementedRegister a) := by
  unfold popTo
  rw [if_neg (ne_sp_of_absent h), hv, ok_bind, write_absent h, error_bind]

theorem pushFrom_absent {a : Byte} {s : State} (h : s.classOf a = .absent) :
    pushFrom a s = .error (.unimplementedRegister a) := by
  unfold pushFrom
  rw [if_neg (ne_sp_of_absent h), read_absent h, error_bind]

theorem exec_op1_absent {s : State} {op : Op1} {f : Form1} {a : Byte} (hl : f.loc s = .ok a)
    (h : s.classOf a = .absent) (stack : op = .pop → ∃ v, s.read 1 s.sp = .ok v) :
    exec (op.instr f) s = .fault (.unimplementedRegister a) := by
  rw [exec_op1_at hl]
  apply finish_error
  cases op with
  | pop =>
    obtain ⟨v, hv⟩ := stack rfl
    exact popTo_absent h hv
  | push => exact pushFrom_absent h
  | clr => exact loadReg_absent rfl h
  | dec | rlc | inc | com | rl | rrc | sra | rr => exact unop_absent h

theorem exec_ld_operand_stop {s : State} {f : LdForm} {e : Fault}
    (h : f.dst s = .error e ∨ ∃ a, f.dst s = .ok a ∧ f.src s = .error e) : exec f.instr s = .fault e := by
  rw [exec_ld]
  apply finish_error
  rcases h with h | ⟨a, ha, hs⟩
  · rw [h, error_bind]
  · rw [ha, ok_bind, loadReg, hs, error_bind]

theorem exec_ld_at {s : State} {f : LdForm} {a : Byte} (h : f.dst s = .ok a) :
    exec f.instr s = finish (loadReg f.len a (f.src s) s) := by
  rw [exec_ld, h, ok_bind]

/-- Settles O26, from the stops of each form set and of LD. -/
theorem missingLocationsStop : Obligations.MissingLocationsStop := by
  refine ⟨fun s op f e => exec_op2_operand_stop, fun s op f e h => ?_, fun s op f a => exec_op1_absent,
    fun s f e => exec_ld_operand_stop, fun s f a v ha hv h => ?_⟩
  · rw [exec_op1, h, error_bind]
    rfl
  · rw [exec_ld_at ha]
    exact finish_error (loadReg_absent hv h)

end Sys2Proof.Machine
end

section
/-! PROOFS. The loads: LD through its one meaning, LDC, LDE and their stepping kin through the memory that they
reach, and where these stop (40_load R101 to R109; 20_memory R50, R53). -/

namespace Sys2Proof.Claims

open Sys2Proof Sys2Proof.Machine

/-- An instruction whose shared operation succeeds with an effect does just that. -/
theorem does_of_ok {i : Instr} {s : State} {r : Except Fault State} {ws : List (Byte × Byte)} {pc : Addr}
    (hexec : exec i s = finish r) (h : ∃ t, r = .ok t ∧ Effect s t ws pc) : Does i s ws pc := by
  obtain ⟨t, ht, e⟩ := h
  exact ⟨t, hexec.trans (finish_ok ht), e⟩

/-! ### LD -/

theorem does_ld {s : State} {f : LdForm} {a v : Byte} (ha : f.dst s = .ok a) (hv : f.src s = .ok v)
    (hi : Implemented s a) : Does f.instr s [(a, v)] (s.pc + BitVec.ofNat 16 f.len) :=
  does_of_ok (exec_ld_at ha) (loadReg_ok hv hi)

/-- Settles O31: every form of LD is one load at the location it names. -/
theorem ldResult : Obligations.LdResult := fun _ f _ =>
  ⟨encode_ld f, fun _ _ => does_ld⟩

/-- Settles O32: the two forms are forms of LD like the others. -/
theorem ldPresumedDirection : Obligations.LdPresumedDirection :=
  ⟨fun d a => ⟨rfl, decodeAfterEncode (.ld_reg_ireg d a) [] rfl, rfl, decodeAfterEncode (.ld_ireg_reg d a) [] rfl⟩,
    fun _ _ _ _ _ => does_ld⟩

/-! ### The two memories -/

theorem Space.read_ok {m : Space} {s : State} {A : Addr} (h : A.toNat < m.size s) :
    m.read s A = .ok (m.byte s A.toNat) := by
  cases m with
  | program => exact pmLoad_ok h
  | data => exact dmLoad_ok h

theorem Space.read_outOfRange {m : Space} {s : State} {A : Addr} (h : m.size s ≤ A.toNat) :
    m.read s A = .error (.addressOutOfRange A) := by
  cases m with
  | program => exact if_neg (Nat.not_lt.2 h)
  | data => exact if_neg (Nat.not_lt.2 h)

theorem pmStore_ok {s : State} {a : Addr} (v : Byte) (hw : s.cfg.pmWritable = true)
    (h : a.toNat < s.cfg.pmSize.val) :
    s.pmStore a v =
      .ok { s with pm := Memory.write s.pm a.toNat v, pmWritten := insertAddr s.pmWritten a.toNat } := by
  unfold State.pmStore
  rw [if_neg (by simp [hw]), if_pos h]

theorem dmStore_ok {s : State} {a : Addr} (v : Byte) (h : a.toNat < s.cfg.dmSize.val) :
    s.dmStore a v = .ok { s with dm := Memory.write s.dm a.toNat v } := if_pos h

/-- A store that is allowed and in range stores one byte and changes nothing else. -/
theorem Space.write_ok {m : Space} {s : State} {A : Addr} (v : Byte) (h : A.toNat < m.size s)
    (allowed : m = .program → s.cfg.pmWritable = true) :
    ∃ t, m.write s A v = .ok t ∧ StoresByte s t m A.toNat v s.pc := by
  cases m with
  | program =>
    refine ⟨_, pmStore_ok v (allowed rfl) h, ⟨fun _ => rfl, rfl, fun b => pmByte_write s _ b v _, nofun,
      fun _ _ => rfl, fun b => ?_, ⟨rfl, rfl, rfl, rfl, rfl⟩, rfl, rfl⟩⟩
    rw [mem_insertAddr]
    simp [or_comm]
  | data =>
    exact ⟨_, dmStore_ok v h, ⟨fun _ => rfl, rfl, fun b => dmByte_write s _ b v, fun _ _ => rfl, nofun,
      fun b => by simp, ⟨rfl, rfl, rfl, rfl, rfl⟩, rfl, rfl⟩⟩

theorem Space.write_outOfRange {m : Space} {s : State} {A : Addr} (v : Byte) (h : m.size s ≤ A.toNat)
    (allowed : m = .program → s.cfg.pmWritable = true) : m.write s A v = .error (.addressOutOfRange A) := by
  cases m with
  | program =>
    show s.pmStore A v = _
    unfold State.pmStore
    rw [if_neg (by simp [allowed rfl])]
    exact if_neg (Nat.not_lt.2 h)
  | data => exact if_neg (Nat.not_lt.2 h)

theorem StoresByte.advance {s t : State} {m : Space} {A : Nat} {v : Byte} (h : StoresByte s t m A v s.pc) (n : Nat) :
    StoresByte s (t.advance n) m A v (s.pc + BitVec.ofNat 16 n) := by
  obtain ⟨regs, outputs, stored, program, data, written, ⟨cfg, pending, reset, tick, epoch⟩, runState, pc⟩ := h
  have stored' : ∀ b, m.byte (t.advance n) b = m.byte t b := fun b => by cases m <;> rfl
  exact ⟨regs, outputs, fun b => (stored' b).trans (stored b), program, data, written,
    ⟨cfg, pending, reset, tick, epoch⟩, runState, by rw [advance_pc, pc]⟩

/-- The address of every form can be formed: its registers are always there. -/
theorem MemForm.addr_ok (s : State) (f : MemForm) : ∃ A, f.addr s = .ok A := by
  cases f with
  | irr p => exact addrIrr_ok s p
  | xs o p =>
    obtain ⟨A, h⟩ := addrIrr_ok s p
    exact ⟨_, addrXs_of_irr h o⟩
  | xl o p =>
    obtain ⟨A, h⟩ := addrIrr_ok s p
    exact ⟨_, addrXl_of_irr h o⟩
  | da a => exact ⟨a, rfl⟩

theorem read_wr_ok (s : State) (k : Nat) (n : WReg) : ∃ v, s.read k (s.wr n) = .ok v :=
  read_ok_of_implemented k (implemented_wr s n)

theorem exec_memLoad_at {m : Space} {d : WReg} {f : MemForm} {s : State} {A : Addr} (h : f.addr s = .ok A) :
    exec (m.load d f) s = finish (loadReg f.len (s.wr d) (m.read s A) s) := by
  rw [exec_memLoad, h, ok_bind]

theorem exec_memStore_at {m : Space} {f : MemForm} {r : WReg} {s : State} {A : Addr} {v : Byte}
    (h : f.addr s = .ok A) (hv : s.read 2 (s.wr r) = .ok v) :
    exec (m.store f r) s = finish (m.write s A v >>= fun t => .ok (t.advance f.len)) := by
  rw [exec_memStore, h, ok_bind, hv, ok_bind]

/-- Settles O33: a load is LD from the byte of the memory. -/
theorem memoryLoadResult : Obligations.MemoryLoadResult :=
  ⟨encode_memLoad, fun _ s d _ _ ha hA =>
    does_of_ok (exec_memLoad_at ha) (loadReg_ok (Space.read_ok hA) (implemented_wr s d))⟩

/-- Settles O34: a store is the memory's own store, which the two memories share. -/
theorem memoryStoreResult : Obligations.MemoryStoreResult := by
  refine ⟨encode_memStore, fun m s r f A v ha hv hA allowed => ?_⟩
  obtain ⟨t, ht, stores⟩ := Space.write_ok v hA allowed
  refine ⟨t.advance f.len, (exec_memStore_at ha hv).trans (finish_ok ?_), stores.advance f.len⟩
  rw [ht, ok_bind]

theorem add_stepDelta (A : Addr) (up : Bool) : A + stepDelta up = if up then A + 1#16 else A - 1#16 := by
  cases up with
  | true => rfl
  | false => exact (BitVec.sub_eq_add_neg A 1#16).symm

/-- Settles O35: the stepping load with the byte of its memory, the step being one up or down. -/
theorem loadStepResult : Obligations.LoadStepResult := by
  refine ⟨encode_memStep, fun m up s d p A h0 h1 ha hA => ?_⟩
  rw [← add_stepDelta]
  exact does_of_ok (exec_memStep m up d p s) (loadStep_ok h0 h1 ha (Space.read_ok hA))

theorem loadReg_src_stop {len : Nat} {a : Byte} {src : Except Fault Byte} {s : State} {e : Fault}
    (h : src = .error e) : loadReg len a src s = .error e := by
  unfold loadReg
  rw [h, error_bind]

theorem pmStore_masked {s : State} (a : Addr) (v : Byte) (h : s.cfg.pmWritable = false) :
    s.pmStore a v = .error .progMemWriteUnsupported := if_pos h

/-- Settles O36: the memory's own stops, reached because every operand of these instructions is there. -/
theorem memoryAccessStops : Obligations.MemoryAccessStops := by
  refine ⟨fun m s r f A ha hA => ⟨?_, fun allowed => ?_⟩, fun s r f masked => ?_, fun m up s d p A h0 h1 ha hA => ?_⟩
  · rw [exec_memLoad_at ha]
    exact finish_error (loadReg_src_stop (Space.read_outOfRange hA))
  · obtain ⟨v, hv⟩ := read_wr_ok s 2 r
    rw [exec_memStore_at ha hv, Space.write_outOfRange v hA allowed]
    rfl
  · obtain ⟨A, ha⟩ := f.addr_ok s
    obtain ⟨v, hv⟩ := read_wr_ok s 2 r
    rw [exec_memStore_at ha hv, Space.write, pmStore_masked A v masked]
    rfl
  · rw [exec_memStep, loadStep, if_neg (by simp [h0, h1]), ha, ok_bind, Space.read_outOfRange hA]
    rfl

end Sys2Proof.Claims
end

section
/-! PROOFS. The stack, the transfers of control and CPU control (40_load R110, R111; 43_program_control; 46_cpu_control;
10_state R24, 20_memory R44, R52 for every push and pop). -/

namespace Sys2Proof.Machine

open Sys2Proof Sys2Proof.Claims

/-! ### POP and PUSH -/

/-- Settles O37: POP at the operand location of its form. -/
theorem popResult : Obligations.PopResult := fun _ _ _ _ hl ha hv hi =>
  does_of_ok (exec_op1_at (op := .pop) hl) (popTo_ok ha hv hi)

/-- Settles O38: PUSH of the operand location of its form. -/
theorem pushResult : Obligations.PushResult := fun _ _ _ _ hl ha hv hi =>
  does_of_ok (exec_op1_at (op := .push) hl) (pushFrom_ok ha hv hi)

theorem popTo_sp (s : State) : popTo spAddr s = .error .unpredictable := if_pos rfl

theorem pushFrom_sp (s : State) : pushFrom spAddr s = .error .unpredictable := if_pos rfl

/-! ### Pairs that hold a target -/

theorem addrIpair_odd {s : State} {a : Byte} (h : a.getLsbD 0 = true) :
    s.addrIpair a = .error (.oddRegisterPair a) := if_pos h

theorem addrIpair_even {s : State} {a : Byte} (h : a.getLsbD 0 = false) : s.addrIpair a = s.readPair 0 a := by
  unfold State.addrIpair
  rw [h]
  rfl

theorem callThrough_odd {s : State} {a : Byte} (h : a.getLsbD 0 = true) :
    callThrough a s = .error (.oddRegisterPair a) := if_pos h

theorem callThrough_overlap {s : State} {a : Byte} (even : a.getLsbD 0 = false) (h : s.pairMeetsStack a = true) :
    callThrough a s = .error .unpredictable := by
  unfold callThrough
  rw [if_neg (Bool.eq_false_iff.1 even), if_pos h]

/-- Through an even pair that meets neither SP nor the bytes about to be pushed, CALL reads its target first. -/
theorem callThrough_eq {s : State} {a : Byte} (even : a.getLsbD 0 = false) (h : s.pairMeetsStack a = false) :
    callThrough a s = s.readPair 0 a >>= fun target => callTo 2 target s := by
  unfold callThrough
  rw [if_neg (Bool.eq_false_iff.1 even), if_neg (by simp [h])]

/-- A call through a pair that succeeds is a call to what the pair held. -/
theorem callThrough_inv {s t : State} {a : Byte} (h : callThrough a s = .ok t) :
    ∃ target, callTo 2 target s = .ok t := by
  unfold callThrough at h
  split at h
  · cases h
  · split at h
    · cases h
    · obtain ⟨target, -, h⟩ := bind_ok_inv h
      exact ⟨target, h⟩

theorem pairMeetsStack_false {s : State} {a : Byte}
    (h : ∀ b, b = a ∨ b = a + 1#8 → b ≠ spAddr ∧ b ≠ s.sp - 1#8 ∧ b ≠ s.sp - 2#8) :
    s.pairMeetsStack a = false := by
  rw [Bool.eq_false_iff]
  intro meets
  obtain ⟨b, inPair, met⟩ := pairMeetsStack_inv meets
  obtain ⟨h0, h1, h2⟩ := h b inPair
  rcases met with e | e | e
  · exact h0 e
  · exact h1 e
  · exact h2 e

theorem pairMeetsStack_of {s : State} {a b : Byte} (inPair : b = a ∨ b = a + 1#8)
    (meets : b = spAddr ∨ b = s.sp - 1#8 ∨ b = s.sp - 2#8) : s.pairMeetsStack a = true := by
  simp only [State.pairMeetsStack, List.any_eq_true, List.contains_iff_mem]
  exact ⟨b, by simpa using inPair, by simpa using meets⟩

theorem readPair_operand_stop {s : State} {a : Byte} {e : Fault}
    (h : s.read 0 a = .error e ∨ ∃ v, s.read 0 a = .ok v ∧ s.read 1 (a + 1#8) = .error e) :
    s.readPair 0 a = .error e := by
  unfold State.readPair
  rcases h with h | ⟨v, hv, h⟩
  · rw [h, error_bind]
  · rw [hv, ok_bind, h, error_bind]

/-- Settles O39, from the check that each of these instructions makes first. -/
theorem specialOperandStops : Obligations.SpecialOperandStops := by
  refine ⟨fun s f hl => ⟨?_, ?_⟩, fun m up s d p h => ?_, fun s a odd => ⟨?_, ?_⟩,
    fun s a b even inPair meets => ?_⟩
  · exact (exec_op1_at (op := .pop) hl).trans (finish_error (popTo_sp s))
  · exact (exec_op1_at (op := .push) hl).trans (finish_error (pushFrom_sp s))
  · rw [exec_memStep, loadStep, if_pos h]
    rfl
  · rw [exec_jp_ipair, addrIpair_odd odd]
    rfl
  · rw [exec_call_ipair, callThrough_odd odd]
    rfl
  · rw [exec_call_ipair, callThrough_overlap even (pairMeetsStack_of inPair meets)]
    rfl

/-! ### Calls and jumps -/

/-- Settles O40: both forms are the two pushes of a call, CALL @ after reading its target. -/
theorem callResult : Obligations.CallResult := by
  refine ⟨fun target a => ⟨rfl, rfl⟩, fun s target hi => ?_, fun s a hi lo even apart hh hl implemented => ?_⟩
  · exact does_of_ok (exec_call_da target s) (callTo_ok hi)
  · have called : exec (.call_ipair a) s = finish (callTo 2 (word16 hi lo) s) := by
      rw [exec_call_ipair, callThrough_eq even (pairMeetsStack_false apart), readPair_ok hh hl, ok_bind]
    exact does_of_ok called (callTo_ok implemented)

theorem does_next {i : Instr} {s t : State} {ws : List (Byte × Byte)} {pc : Addr} (hexec : exec i s = .next t)
    (e : Effect s t ws pc) : Does i s ws pc := ⟨t, hexec, e⟩

theorem effect_jumpIf (cc : Cond) (len : Nat) (target : Addr) (s : State) :
    Effect s (jumpIf cc len target s) [] (if cond cc s.flags then target else s.pc + BitVec.ofNat 16 len) := by
  unfold jumpIf
  split
  · exact (Effect.refl s).setPc target
  · exact (Effect.refl s).advance len

/-- Settles O41: both jumps are the one conditional jump, to their own targets. -/
theorem conditionalJumpResult : Obligations.ConditionalJumpResult := by
  refine ⟨fun n a ra => ?_, fun s cc a => does_next (exec_jp_cc_da cc a s) (effect_jumpIf ..),
    fun s cc ra => does_next (exec_jr_cc_ra cc ra s) (effect_jumpIf ..)⟩
  simp only [encode, condBits_condOfBits]
  exact ⟨rfl, rfl⟩

theorem jumpTo_ok {s : State} {target : Except Fault Addr} {A : Addr} (h : target = .ok A) :
    jumpTo target s = .ok { s with pc := A } := by
  unfold jumpTo
  rw [h, ok_bind]

/-- Settles O42: the target is the pair, and only pc takes it. -/
theorem jumpIndirectResult : Obligations.JumpIndirectResult := by
  refine ⟨fun a => rfl, fun s a hi lo even hh hl => ?_⟩
  have target : s.addrIpair a = .ok (word16 hi lo) := (addrIpair_even even).trans (readPair_ok hh hl)
  exact does_of_ok (exec_jp_ipair a s) ⟨_, jumpTo_ok target, (Effect.refl s).setPc _⟩

/-! ### Returns -/

theorem sp_add_two (x : Byte) : x + 1#8 + 1#8 = x + 2#8 := BitVec.add_assoc x 1#8 1#8

theorem sp_add_three (x : Byte) : x + 2#8 + 1#8 = x + 3#8 := BitVec.add_assoc x 2#8 1#8

/-- Settles O43, from the two pops of RET. -/
theorem retResult : Obligations.RetResult := by
  refine ⟨rfl, fun s hi lo => ?_⟩
  intro sp hh hl
  rw [← sp_add_two]
  exact does_of_ok (exec_ret s) (returnFromCall_ok hh hl)

/-- Settles O44, from the three pops of IRET. -/
theorem iretResult : Obligations.IretResult := by
  refine ⟨rfl, fun s F hi lo => ?_⟩
  intro sp s1 s2 ws h0 h1 h2
  have returned := returnFromInterrupt_ok (F := F) (hi := hi) (lo := lo) h0 h1
  simp only [sp_add_two, sp_add_three] at returned
  exact does_of_ok (exec_iret s) (returned h2)

/-! ### CPU control -/

/-- Settles O47: RCF is one flag write, and NOP only goes on. -/
theorem rcfNopResult : Obligations.RcfNopResult :=
  ⟨rfl, rfl, fun s => ⟨setsFlags_of_setFlags (exec_rcf s), does_next (exec_nop s) ((Effect.refl s).advance 1)⟩⟩

/-- Setting SYM is one register write. -/
theorem does_setSym {i : Instr} {s : State} {v : Byte}
    (hexec : exec i s = .next ((s.setReg s.cfg.symAddr v).advance 1)) :
    Does i s [(s.cfg.symAddr, v)] (s.pc + 1#16) :=
  does_next hexec ((effect_setReg v (by simp)).advance 1)

/-- Settles O48: DI and EI write SYM, and the next boundary reads SYM.2. -/
theorem interruptEnableResult : Obligations.InterruptEnableResult := by
  refine ⟨rfl, rfl, fun s => ⟨does_setSym (exec_di s), does_setSym (exec_ei s), fun t ht => ?_, fun t ht => ?_⟩⟩
  · rw [exec_di] at ht
    cases ht
    have disabled : (s.disableInterrupts.advance 1).interruptsEnabled = false := disableInterrupts_disables s
    exact ⟨disabled, fun running noReset => ⟨running, noReset, .inl disabled⟩⟩
  · rw [exec_ei] at ht
    cases ht
    have enabled : (s.enableInterrupts.advance 1).interruptsEnabled = true := enableInterrupts_enables s
    exact ⟨enabled, fun running noReset pending => ⟨noReset, enabled, .inl ⟨running, pending⟩⟩⟩

/-- Going past an instruction into another run state halts there. -/
theorem halts_advance (s : State) (r : RunState) :
    Halts s { s.advance 1 with runState := r } r (s.pc + 1#16) := by
  obtain ⟨⟨regs, outputs⟩, ⟨program, written, data⟩, ⟨cfg, pending, reset, tick, epoch⟩, -, pc⟩ :=
    (Effect.refl s).advance 1
  exact ⟨⟨regs, outputs⟩, ⟨program, written, data⟩, ⟨cfg, pending, reset, tick, epoch⟩, rfl, pc⟩

/-- Settles O49, from the cases of STOP. -/
theorem idleStopResult : Obligations.IdleStopResult := by
  refine ⟨rfl, rfl, fun s => ⟨_, exec_idle s, halts_advance s .idle⟩, fun s a ha key => ?_, fun s a ha noKey => ?_,
    fun s => exec_stop_open⟩
  · exact ⟨_, exec_stop_key ha key, halts_advance s .stop⟩
  · exact does_next (exec_stop_noKey ha noKey) ((Effect.refl s).setPc _)

/-! ### Stack accesses at locations that are not there -/

theorem firstMissing_append {s : State} {ws ws' : List (Byte × Byte)} {x : Byte}
    (h : FirstMissing s (ws ++ ws') x) :
    FirstMissing s ws x ∨ (AllImplemented s ws ∧ FirstMissing s ws' x) := by
  obtain ⟨before, v, rest, split, present, absent⟩ := h
  rcases List.append_eq_append_iff.1 split with ⟨more, rfl, hws'⟩ | ⟨more, hws, hrest⟩
  · exact .inr ⟨fun w hw => present w (List.mem_append_left _ hw),
      more, v, rest, hws', fun w hw => present w (List.mem_append_right _ hw), absent⟩
  · cases more with
    | nil =>
      rw [List.append_nil] at hws
      subst hws
      exact .inr ⟨present, [], v, rest, hrest.symm, nofun, absent⟩
    | cons w more =>
      obtain ⟨rfl, rfl⟩ := List.cons.inj hrest
      exact .inl ⟨before, v, more, hws, present, absent⟩

/-- Of the two writes of a push, the one that can go nowhere is the second. -/
theorem firstMissing_push {s : State} {p v x : Byte} (h : FirstMissing s [(spAddr, p), (p, v)] x) :
    p = x ∧ s.classOf p = .absent := by
  obtain ⟨before, w, rest, split, present, absent⟩ := h
  cases before with
  | nil =>
    cases split
    simp at absent
  | cons b before =>
    cases before with
    | nil =>
      cases split
      exact ⟨rfl, absent⟩
    | cons b' before =>
      cases before with
      | nil => cases split
      | cons => cases split

theorem callTo_absent {len : Nat} {target : Addr} {s : State} {x : Byte}
    (h : FirstMissing s (pushes s [] [loByte (s.npc len), hiByte (s.npc len)]) x) :
    callTo len target s = .error (.unimplementedRegister x) := by
  unfold callTo
  rcases firstMissing_append h with first | ⟨present, second⟩
  · obtain ⟨rfl, absent⟩ := firstMissing_push first
    rw [push_after_absent _ (Effect.refl s) absent, error_bind]
  · obtain ⟨rfl, absent⟩ := firstMissing_push second
    obtain ⟨t, ht, e⟩ := push_after (loByte (s.npc len)) (Effect.refl s) (present (_, loByte (s.npc len)) (by simp))
    rw [ht, ok_bind, push_after_absent _ e absent, error_bind]

theorem takeInterrupt_absent {s : State} {x : Byte}
    (h : FirstMissing s (pushes s [] [loByte s.pc, hiByte s.pc, 0#8]) x) :
    takeInterrupt s = .error (.unimplementedRegister x) := by
  unfold takeInterrupt
  rcases firstMissing_append h with h | ⟨present, third⟩
  · rcases firstMissing_append h with first | ⟨present, second⟩
    · obtain ⟨rfl, absent⟩ := firstMissing_push first
      rw [push_after_absent _ (Effect.refl s) absent, error_bind]
    · obtain ⟨rfl, absent⟩ := firstMissing_push second
      obtain ⟨t, ht, e⟩ := push_after (loByte s.pc) (Effect.refl s) (present (_, loByte s.pc) (by simp))
      rw [ht, ok_bind, push_after_absent _ e absent, error_bind]
  · obtain ⟨rfl, absent⟩ := firstMissing_push third
    obtain ⟨t, ht, e⟩ := push_after (loByte s.pc) (Effect.refl s)
      (present (_, loByte s.pc) (List.mem_append_left _ (by simp)))
    obtain ⟨u, hu, e'⟩ := push_after (hiByte s.pc) e
      (present (_, hiByte s.pc) (List.mem_append_right _ (by simp)))
    rw [ht, ok_bind, hu, ok_bind, read_flags, ok_bind, push_after_absent _ e' absent, error_bind]

/-- RET stops at the first of its two stack locations that is not there. -/
theorem returnFromCall_absent {s : State} {k : Nat} (hk : k < 2)
    (present : ∀ j, j < k → Implemented s (s.sp + BitVec.ofNat 8 j))
    (absent : s.classOf (s.sp + BitVec.ofNat 8 k) = .absent) :
    returnFromCall s = .error (.unimplementedRegister (s.sp + BitVec.ofNat 8 k)) := by
  unfold returnFromCall
  match k with
  | 0 =>
    rw [BitVec.add_zero] at absent ⊢
    rw [pop_absent 0 absent, error_bind]
  | 1 =>
    obtain ⟨v, hv⟩ := read_ok_of_implemented 0 (present 0 (by decide))
    rw [BitVec.add_zero] at hv
    have second := pop_absent (s := s.setReg spAddr (s.sp + 1#8)) 1 (by rw [sp_setReg_sp]; exact absent)
    rw [sp_setReg_sp] at second
    rw [pop_ok hv, ok_bind, second, error_bind]

/-- IRET stops at the first of its three stack locations that is not there. -/
theorem returnFromInterrupt_absent {s : State} {k : Nat} (hk : k < 3)
    (present : ∀ j, j < k → Implemented s (s.sp + BitVec.ofNat 8 j))
    (absent : s.classOf (s.sp + BitVec.ofNat 8 k) = .absent) :
    returnFromInterrupt s = .error (.unimplementedRegister (s.sp + BitVec.ofNat 8 k)) := by
  unfold returnFromInterrupt
  match k with
  | 0 =>
    rw [BitVec.add_zero] at absent ⊢
    rw [pop_absent 0 absent, error_bind]
  | k + 1 =>
    obtain ⟨F, hF⟩ := read_ok_of_implemented 0 (present 0 (Nat.succ_pos k))
    rw [BitVec.add_zero] at hF
    have written : (s.setReg spAddr (s.sp + 1#8)).write flagsAddr F =
        .ok ((s.setReg spAddr (s.sp + 1#8)).setReg flagsAddr F) := by simp [State.write]
    rw [pop_ok hF, ok_bind, written, ok_bind]
    generalize hs1 : (s.setReg spAddr (s.sp + 1#8)).setReg flagsAddr F = s1
    have class1 : ∀ a, s1.classOf a = s.classOf a := by rw [← hs1]; exact fun _ => rfl
    have sp1 : s1.sp = s.sp + 1#8 := by rw [← hs1]; simp
    match k with
    | 0 =>
      rw [pop_absent 1 (by rw [class1, sp1]; exact absent), error_bind, sp1]
    | 1 =>
      obtain ⟨hi, hh⟩ := read_ok_of_implemented (s := s1) (a := s.sp + 1#8) 1
        (by rw [Implemented, class1]; exact present 1 (by decide))
      rw [← sp1] at hh
      have third := pop_absent (s := s1.setReg spAddr (s1.sp + 1#8)) 2
        (by rw [sp_setReg_sp, classOf_setReg, class1, sp1, sp_add_two]; exact absent)
      rw [sp_setReg_sp, sp1, sp_add_two] at third
      rw [pop_ok hh, ok_bind, sp1, sp_add_two, third, error_bind]

theorem takesInterrupt_absent {s : State} {x : Byte} (h : TakesInterrupt s)
    (missing : FirstMissing s (pushes s [] [loByte s.pc, hiByte s.pc, 0#8]) x) :
    step s = .fault (.unimplementedRegister x) := by
  rw [step_of_takesInterrupt h, takeInterrupt_absent (s := { s with runState := .running }) missing]
  rfl

theorem pushFrom_stack_absent {s : State} {a v : Byte} (ha : a ≠ spAddr) (hv : s.read 1 a = .ok v)
    (h : s.classOf (s.sp - 1#8) = .absent) : pushFrom a s = .error (.unimplementedRegister (s.sp - 1#8)) := by
  unfold pushFrom
  rw [if_neg ha, hv, ok_bind, push_absent v h, error_bind]

theorem popTo_stack_absent {s : State} {a : Byte} (ha : a ≠ spAddr) (h : s.classOf s.sp = .absent) :
    popTo a s = .error (.unimplementedRegister s.sp) := by
  unfold popTo
  rw [if_neg ha, read_absent h, error_bind]

/-- Settles O27, from the stops of each push, pop and pair. -/
theorem missingStackStops : Obligations.MissingStackStops := by
  refine ⟨fun s f a v hl ha hv h => ?push, fun s target x h => ?call, fun s a hi lo x even apart hh hl h => ?callPair,
    fun s x takes h => takesInterrupt_absent takes h, fun s f a hl ha h => ?pop, fun s k hk present absent => ?ret,
    fun s k hk present absent => ?iret, fun s a e even h => ?jumpPair, fun s a e even apart h => ?callTarget⟩
  case push => exact (exec_op1_at (op := .push) hl).trans (finish_error (pushFrom_stack_absent ha hv h))
  case call => exact (exec_call_da target s).trans (finish_error (callTo_absent h))
  case callPair =>
    rw [exec_call_ipair, callThrough_eq even (pairMeetsStack_false apart), readPair_ok hh hl, ok_bind]
    exact finish_error (callTo_absent h)
  case pop => exact (exec_op1_at (op := .pop) hl).trans (finish_error (popTo_stack_absent ha h))
  case ret => exact (exec_ret s).trans (finish_error (returnFromCall_absent hk present absent))
  case iret => exact (exec_iret s).trans (finish_error (returnFromInterrupt_absent hk present absent))
  case jumpPair =>
    rw [exec_jp_ipair, addrIpair_even even, readPair_operand_stop h]
    rfl
  case callTarget =>
    rw [exec_call_ipair, callThrough_eq even (pairMeetsStack_false apart), readPair_operand_stop h]
    rfl

end Sys2Proof.Machine
end

section
/-! PROOFS. Interrupt entry, and the two returns that undo a call and an interrupt: what the stacked bytes are when
the stack is plain storage, and what a return finds in them (43_program_control R141, R142, R146; 60_exceptions R185,
R187). -/

namespace Sys2Proof.Claims

open Sys2Proof Sys2Proof.Machine

/-- Settles O50: the entry's own pushes and vector, counted as a step. -/
theorem interruptEntry : Obligations.InterruptEntry := by
  intro s takes implemented hv hv'
  obtain ⟨F, u, flags, taken, e⟩ := takeInterrupt_ok (s := { s with runState := .running }) implemented hv hv'
  refine ⟨F, u, flags, ?_, e⟩
  unfold StepsTo
  rw [step_of_takesInterrupt takes, taken]
  rfl

/-! ### Pushes onto plain storage -/

/-- A location that a push may fill without touching FLAGS or SP. -/
def PlainByte (s : State) (a : Byte) : Prop :=
  (s.classOf a = .plain ∨ s.classOf a = .control) ∧ a ≠ flagsAddr ∧ a ≠ spAddr

theorem PlainStack.byte {s : State} {n k : Nat} (h : PlainStack s n) (h1 : 1 ≤ k) (hk : k ≤ n) :
    PlainByte s (s.sp - BitVec.ofNat 8 k) := h k h1 hk _ rfl

/-- `t` has the parameters and the FLAGS byte of `s`, SP at `p`, and the bytes of `stacked` at their locations. -/
structure Stacked (s t : State) (p : Byte) (stacked : List (Byte × Byte)) : Prop where
  cfg : t.cfg = s.cfg
  sp : t.sp = p
  stack : ∀ w ∈ stacked, t.reg w.1 = w.2
  flags : t.reg flagsAddr = s.reg flagsAddr

/-- One more push onto plain storage, at a location where nothing is stacked yet. -/
theorem Stacked.push {s t u : State} {p v : Byte} {stacked : List (Byte × Byte)} (h : Stacked s t p stacked)
    (plain : PlainByte s (p - 1#8)) (above : ∀ w ∈ stacked, w.1 ≠ p - 1#8 ∧ w.1 ≠ spAddr) (hu : t.push v = .ok u) :
    Stacked s u (p - 1#8) ((p - 1#8, v) :: stacked) := by
  obtain ⟨class', notFlags, notSp⟩ := plain
  obtain ⟨-, e⟩ := push_inv hu
  rw [h.sp] at e
  have notPlatform : t.classOf (p - 1#8) ≠ .platform := by
    rw [classOf_congr h.cfg]
    rcases class' with c | c <;> simp [c]
  have here : u.reg (p - 1#8) = v := by
    rw [e.writes.regs]
    simp [after, lastWritten, notPlatform]
  have sp' : u.sp = p - 1#8 := by
    show u.reg spAddr = _
    rw [e.writes.regs]
    simp [after, lastWritten, notSp]
  have other : ∀ a, a ≠ p - 1#8 → a ≠ spAddr → u.reg a = t.reg a := fun a h1 h2 => by
    rw [e.writes.regs]
    simp [after, lastWritten, Ne.symm h1, Ne.symm h2]
  refine ⟨e.control.cfg.trans h.cfg, sp', fun w hw => ?_, ?_⟩
  · rcases List.mem_cons.1 hw with rfl | hw
    · exact here
    · rw [other _ (above w hw).1 (above w hw).2, h.stack w hw]
  · rw [other _ (Ne.symm notFlags) (by decide), h.flags]

theorem Stacked.start (s : State) : Stacked s s s.sp [] := ⟨rfl, rfl, nofun, rfl⟩

theorem Stacked.pushTwo {s s1 s2 : State} {v w : Byte} (b1 : PlainByte s (s.sp - 1#8))
    (b2 : PlainByte s (s.sp - 2#8)) (h1 : s.push v = .ok s1) (h2 : s1.push w = .ok s2) :
    Stacked s s2 (s.sp - 2#8) [(s.sp - 2#8, w), (s.sp - 1#8, v)] := by
  have next : s.sp - 1#8 - 1#8 = s.sp - 2#8 := by bv_omega
  have stacked := ((Stacked.start s).push b1 nofun h1).push (next ▸ b2) (by
    simp only [List.mem_singleton, forall_eq]
    exact ⟨by bv_omega, b1.2.2⟩) h2
  rwa [next] at stacked

theorem Stacked.pushThree {s s1 s2 s3 : State} {v w x : Byte} (plain : PlainStack s 3) (h1 : s.push v = .ok s1)
    (h2 : s1.push w = .ok s2) (h3 : s2.push x = .ok s3) :
    Stacked s s3 (s.sp - 3#8) [(s.sp - 3#8, x), (s.sp - 2#8, w), (s.sp - 1#8, v)] := by
  have b1 := plain.byte (k := 1) (by decide) (by decide)
  have b2 := plain.byte (k := 2) (by decide) (by decide)
  have b3 := plain.byte (k := 3) (by decide) (by decide)
  have next : s.sp - 2#8 - 1#8 = s.sp - 3#8 := by bv_omega
  have stacked := (Stacked.pushTwo b1 b2 h1 h2).push (next ▸ b3) (by
    simp only [List.mem_cons, List.not_mem_nil, or_false, forall_eq_or_imp, forall_eq]
    exact ⟨⟨by bv_omega, b2.2.2⟩, by bv_omega, b1.2.2⟩) h3
  rwa [next] at stacked

/-! ### RET behind a call -/

/-- A call onto plain storage leaves the address after it there. -/
theorem callTo_stacked {s t : State} {len : Nat} {target : Addr} (plain : PlainStack s 2)
    (h : callTo len target s = .ok t) :
    Stacked s t (s.sp - 2#8) [(s.sp - 2#8, hiByte (s.npc len)), (s.sp - 1#8, loByte (s.npc len))] := by
  obtain ⟨s1, h1, h⟩ := bind_ok_inv h
  obtain ⟨s2, h2, h⟩ := bind_ok_inv h
  cases h
  obtain ⟨cfg, sp, stack, flags⟩ := Stacked.pushTwo (plain.byte (k := 1) (by decide) (by decide))
    (plain.byte (k := 2) (by decide) (by decide)) h1 h2
  exact ⟨cfg, sp, stack, flags⟩

/-- Either form of CALL that goes on is a call of its length. -/
theorem exec_call_inv {s t : State} {i : Instr} {len : Nat}
    (hi : (∃ a, i = .call_da a ∧ len = 3) ∨ (∃ a, i = .call_ipair a ∧ len = 2)) (h : exec i s = .next t) :
    ∃ target, callTo len target s = .ok t := by
  rcases hi with ⟨a, rfl, rfl⟩ | ⟨a, rfl, rfl⟩
  · exact ⟨a, finish_eq_next.1 h⟩
  · exact callThrough_inv (finish_eq_next.1 h)

/-- A plain byte of another state with the same parameters reads as it is stored there. -/
theorem PlainByte.read {s h : State} {a : Byte} (plain : PlainByte s a) (hc : h.cfg = s.cfg) (k : Nat) :
    h.read k a = .ok (h.reg a) :=
  read_storage k plain.2.1 (by rw [classOf_congr hc]; exact plain.1)

/-- RET on two plain stack bytes goes to the address they hold, and moves SP past them. -/
theorem exec_ret_plain {h : State} {p : Byte} (sp : h.sp = p - 2#8) (b1 : PlainByte h (p - 1#8))
    (b2 : PlainByte h (p - 2#8)) :
    ∃ u, exec .ret h = .next u ∧ u.pc = word16 (h.reg (p - 2#8)) (h.reg (p - 1#8)) ∧ u.sp = p ∧
      ∀ a, a ≠ spAddr → u.reg a = h.reg a := by
  have up : h.sp + 1#8 = p - 1#8 := by rw [sp]; bv_omega
  have hi : h.read 0 h.sp = .ok (h.reg (p - 2#8)) := by
    rw [sp]
    exact b2.read rfl 0
  have lo : (h.setReg spAddr (h.sp + 1#8)).read 1 (h.sp + 1#8) = .ok (h.reg (p - 1#8)) := by
    rw [up, b1.read (h := h.setReg spAddr (p - 1#8)) rfl 1, reg_setReg_ne h _ b1.2.2]
  obtain ⟨u, hu, e⟩ := returnFromCall_ok hi lo
  refine ⟨u, (exec_ret h).trans (finish_ok hu), e.pc, ?_, fun a ha => ?_⟩
  · rw [sp_of_effect e, up]
    simp only [after, classOf_sp, reduceCtorEq, if_false, lastWritten, List.foldl_cons, List.foldl_nil, if_true]
    bv_omega
  · rw [e.writes.regs]
    simp [after, lastWritten, Ne.symm ha]

theorem PlainByte.congr {s t : State} (hc : t.cfg = s.cfg) {a : Byte} (h : PlainByte s a) : PlainByte t a := by
  unfold PlainByte
  rwa [classOf_congr hc]

/-- Settles O45: RET finds the bytes that the call left. -/
theorem returnUndoesCall : Obligations.ReturnUndoesCall := by
  intro s t h i len hi plain called hcfg hsp kept
  obtain ⟨target, called⟩ := exec_call_inv hi called
  obtain ⟨cfg, sp, stack, -⟩ := callTo_stacked plain called
  have cfg' : h.cfg = s.cfg := hcfg.trans cfg
  obtain ⟨u, hu, pc, sp', regs⟩ := exec_ret_plain (hsp.trans sp)
    ((plain.byte (k := 1) (by decide) (by decide)).congr cfg')
    ((plain.byte (k := 2) (by decide) (by decide)).congr cfg')
  refine ⟨u, hu, ?_, sp', regs⟩
  have high : h.reg (s.sp - 2#8) = hiByte (s.npc len) :=
    (kept 2 (by decide) (by decide)).trans (stack (_, hiByte (s.npc len)) (by simp))
  have low : h.reg (s.sp - 1#8) = loByte (s.npc len) :=
    (kept 1 (by decide) (by decide)).trans (stack (_, loByte (s.npc len)) (by simp))
  rw [pc, high, low, word16_hiByte_loByte]
  rfl

/-! ### IRET behind an interrupt -/

theorem flags_of_hiNib {s t : State} (h : hiNib (t.reg flagsAddr) = hiNib (s.reg flagsAddr)) : t.flags = s.flags := by
  have bit : ∀ (b : Byte) (k : Nat), k < 4 → b.getLsbD (k + 4) = (hiNib b).getLsbD k := fun b k hk => by
    simp [hiNib, hk, Nat.add_comm]
  simp only [State.flags]
  rw [bit _ 3 (by decide), bit _ 2 (by decide), bit _ 1 (by decide), bit _ 0 (by decide), h,
    ← bit _ 3 (by decide), ← bit _ 2 (by decide), ← bit _ 1 (by decide), ← bit _ 0 (by decide)]

/-- Interrupt entry onto plain storage away from SYM leaves pc and the flags there. -/
theorem takeInterrupt_stacked {s t : State} (plain : PlainStack s 3)
    (symSp : s.cfg.symAddr ≠ spAddr) (apart : ∀ k, 1 ≤ k → k ≤ 3 → s.sp - BitVec.ofNat 8 k ≠ s.cfg.symAddr)
    (h : takeInterrupt s = .ok t) :
    ∃ F, hiNib F = hiNib (s.reg flagsAddr) ∧ t.cfg = s.cfg ∧ t.sp = s.sp - 3#8 ∧ t.reg (s.sp - 3#8) = F ∧
      t.reg (s.sp - 2#8) = hiByte s.pc ∧ t.reg (s.sp - 1#8) = loByte s.pc := by
  obtain ⟨s1, h1, h⟩ := bind_ok_inv h
  obtain ⟨s2, h2, h⟩ := bind_ok_inv h
  obtain ⟨F, hF, h⟩ := bind_ok_inv h
  obtain ⟨s3, h3, h⟩ := bind_ok_inv h
  obtain ⟨hi, -, h⟩ := bind_ok_inv h
  obtain ⟨lo, -, h⟩ := bind_ok_inv h
  cases h
  have pushed := Stacked.pushTwo (plain.byte (k := 1) (by decide) (by decide))
    (plain.byte (k := 2) (by decide) (by decide)) h1 h2
  obtain ⟨cfg, sp, stack, -⟩ := Stacked.pushThree plain h1 h2 h3
  rw [read_flags] at hF
  cases hF
  have other : ∀ a, a ≠ s.cfg.symAddr → s3.disableInterrupts.reg a = s3.reg a := fun a ha => by
    simp [State.disableInterrupts, cfg, ha]
  refine ⟨s2.flagsRead 0, (hiNib_flagsRead s2 0).trans (congrArg hiNib pushed.flags), cfg, ?_, ?_, ?_, ?_⟩
  · exact (other spAddr (Ne.symm symSp)).trans sp
  · exact (other _ (apart 3 (by decide) (by decide))).trans (stack (_, s2.flagsRead 0) (by simp))
  · exact (other _ (apart 2 (by decide) (by decide))).trans (stack (_, hiByte s.pc) (by simp))
  · exact (other _ (apart 1 (by decide) (by decide))).trans (stack (_, loByte s.pc) (by simp))

/-- IRET on three plain stack bytes takes FLAGS and the address from them, sets SYM.2 and moves SP past them. -/
theorem exec_iret_plain {h : State} {p : Byte} (sp : h.sp = p - 3#8) (b1 : PlainByte h (p - 1#8))
    (b2 : PlainByte h (p - 2#8)) (b3 : PlainByte h (p - 3#8)) (symFlags : h.cfg.symAddr ≠ flagsAddr)
    (symSp : h.cfg.symAddr ≠ spAddr) :
    ∃ u, exec .iret h = .next u ∧ u.pc = word16 (h.reg (p - 2#8)) (h.reg (p - 1#8)) ∧
      u.reg flagsAddr = h.reg (p - 3#8) ∧ u.sp = p ∧ u.interruptsEnabled = true ∧
      ∀ a, a ≠ flagsAddr → a ≠ spAddr → a ≠ h.cfg.symAddr → u.reg a = h.reg a := by
  have up1 : h.sp + 1#8 = p - 2#8 := by rw [sp]; bv_omega
  have up2 : h.sp + 1#8 + 1#8 = p - 1#8 := by rw [sp]; bv_omega
  have up3 : h.sp + 1#8 + 1#8 + 1#8 = p := by rw [sp]; bv_omega
  have first : h.read 0 h.sp = .ok (h.reg (p - 3#8)) := by
    rw [sp]
    exact b3.read rfl 0
  generalize hF : h.reg (p - 3#8) = F at first
  have second : ((h.setReg spAddr (h.sp + 1#8)).setReg flagsAddr F).read 1 (h.sp + 1#8) =
      .ok (h.reg (p - 2#8)) := by
    rw [up1, b2.read (h := (h.setReg spAddr (p - 2#8)).setReg flagsAddr F) rfl 1,
      reg_setReg_ne _ _ b2.2.1, reg_setReg_ne _ _ b2.2.2]
  have third : (((h.setReg spAddr (h.sp + 1#8)).setReg flagsAddr F).setReg spAddr (h.sp + 1#8 + 1#8)).read 2
      (h.sp + 1#8 + 1#8) = .ok (h.reg (p - 1#8)) := by
    rw [up2, b1.read (h := ((h.setReg spAddr (h.sp + 1#8)).setReg flagsAddr F).setReg spAddr (p - 1#8)) rfl 2,
      reg_setReg_ne _ _ b1.2.2, reg_setReg_ne _ _ b1.2.1, reg_setReg_ne _ _ b1.2.2]
  obtain ⟨u, hu, e⟩ := returnFromInterrupt_ok first second third
  rw [up3] at e
  have spFlags : spAddr ≠ flagsAddr := by decide
  refine ⟨u, (exec_iret h).trans (finish_ok hu), e.pc, ?_, ?_, ?_, fun a h1 h2 h3 => ?_⟩
  · rw [e.writes.regs]
    simp [after, lastWritten, symFlags, spFlags]
  · rw [sp_of_effect e]
    simp [after, lastWritten, symSp]
  · unfold State.interruptsEnabled
    rw [e.control.cfg, e.writes.regs]
    simp [after, lastWritten]
  · rw [e.writes.regs]
    simp [after, lastWritten, Ne.symm h1, Ne.symm h2, Ne.symm h3]

/-- In a machine that the spec describes SYM is neither FLAGS nor SP. -/
theorem sym_apart {c : Config} (wf : c.wf = true) : c.symAddr ≠ flagsAddr ∧ c.symAddr ≠ spAddr := by
  simp only [Config.wf, Bool.and_eq_true, bne_iff_ne] at wf
  exact wf.1

/-- A step that takes an interrupt and goes on has entered it. -/
theorem takesInterrupt_inv {s t : State} (takes : TakesInterrupt s) (h : step s = .next t) :
    ∃ u, takeInterrupt { s with runState := .running } = .ok u ∧ t = { u with tick := u.tick + 1 } := by
  rw [step_of_takesInterrupt takes] at h
  cases taken : takeInterrupt { s with runState := .running } with
  | error f =>
    rw [taken] at h
    cases h
  | ok u =>
    rw [taken] at h
    cases h
    exact ⟨u, rfl, rfl⟩

/-- Settles O51: IRET finds the three bytes that the entry left. -/
theorem iretUndoesInterrupt : Obligations.IretUndoesInterrupt := by
  intro s t h takes wf plain apart stepped hcfg hsp kept
  obtain ⟨u, taken, rfl⟩ := takesInterrupt_inv takes stepped
  obtain ⟨symFlags, symSp⟩ := sym_apart wf
  obtain ⟨F, flags, cfg, sp, r3, r2, r1⟩ :=
    takeInterrupt_stacked (s := { s with runState := .running }) plain symSp apart taken
  have cfg' : h.cfg = s.cfg := hcfg.trans cfg
  obtain ⟨v, hv, pc, F', sp', enabled, regs⟩ := exec_iret_plain (hsp.trans sp)
    ((plain.byte (k := 1) (by decide) (by decide)).congr cfg')
    ((plain.byte (k := 2) (by decide) (by decide)).congr cfg')
    ((plain.byte (k := 3) (by decide) (by decide)).congr cfg') (cfg' ▸ symFlags) (cfg' ▸ symSp)
  rw [cfg'] at regs
  refine ⟨v, hv, ?_, flags_of_hiNib ?_, sp', enabled, regs⟩
  · have high : h.reg (s.sp - 2#8) = hiByte s.pc := (kept 2 (by decide) (by decide)).trans r2
    have low : h.reg (s.sp - 1#8) = loByte s.pc := (kept 1 (by decide) (by decide)).trans r1
    exact pc.trans (by rw [← word16_hiByte_loByte s.pc, ← high, ← low]; rfl)
  · rw [F']
    exact (congrArg hiNib ((kept 3 (by decide) (by decide)).trans r3)).trans flags

end Sys2Proof.Claims
end

section
/-! PROOFS. What an instruction and a step can change at all: most instructions change the register file, pc and the
output events alone; the stores change one memory, IDLE and STOP the run state. The invariant of the memories and the
constancy of masked ROM follow (20_memory R40, R46, R50, R53; 10_state R30; 60_exceptions R182, R184). -/

namespace Sys2Proof.Machine

open Sys2Proof Sys2Proof.Claims

/-- From `s` to `t` nothing changes but the register file, pc and the output events, to which some are added. -/
structure RegsOnly (s t : State) : Prop where
  cfg : t.cfg = s.cfg
  pm : t.pm = s.pm
  pmWritten : t.pmWritten = s.pmWritten
  dm : t.dm = s.dm
  runState : t.runState = s.runState
  pending : t.pending = s.pending
  resetAsserted : t.resetAsserted = s.resetAsserted
  tick : t.tick = s.tick
  epoch : t.epoch = s.epoch
  outputs : ∃ l, t.outputs = s.outputs ++ l

theorem RegsOnly.refl (s : State) : RegsOnly s s :=
  ⟨rfl, rfl, rfl, rfl, rfl, rfl, rfl, rfl, rfl, [], (List.append_nil _).symm⟩

theorem RegsOnly.trans {s t u : State} (h : RegsOnly s t) (h' : RegsOnly t u) : RegsOnly s u := by
  obtain ⟨l, hl⟩ := h.outputs
  obtain ⟨l', hl'⟩ := h'.outputs
  exact ⟨h'.cfg.trans h.cfg, h'.pm.trans h.pm, h'.pmWritten.trans h.pmWritten, h'.dm.trans h.dm,
    h'.runState.trans h.runState, h'.pending.trans h.pending, h'.resetAsserted.trans h.resetAsserted,
    h'.tick.trans h.tick, h'.epoch.trans h.epoch, l ++ l', by rw [hl', hl, List.append_assoc]⟩

theorem RegsOnly.setReg {s t : State} (h : RegsOnly s t) (a v : Byte) : RegsOnly s (t.setReg a v) :=
  ⟨h.cfg, h.pm, h.pmWritten, h.dm, h.runState, h.pending, h.resetAsserted, h.tick, h.epoch, h.outputs⟩

theorem RegsOnly.setPc {s t : State} (h : RegsOnly s t) (p : Addr) : RegsOnly s { t with pc := p } :=
  ⟨h.cfg, h.pm, h.pmWritten, h.dm, h.runState, h.pending, h.resetAsserted, h.tick, h.epoch, h.outputs⟩

theorem RegsOnly.advance {s t : State} (h : RegsOnly s t) (n : Nat) : RegsOnly s (t.advance n) := h.setPc _

theorem RegsOnly.setFlags {s t : State} (h : RegsOnly s t) (f : Flags) : RegsOnly s (t.setFlags f) := h.setReg _ _

theorem RegsOnly.write {s t u : State} {a v : Byte} (h : RegsOnly s t) (hw : t.write a v = .ok u) : RegsOnly s u := by
  obtain ⟨cfg, -, pm, pmWritten, dm, runState, pending, resetAsserted, tick, epoch⟩ := write_frame hw
  exact h.trans ⟨cfg, pm, pmWritten, dm, runState, pending, resetAsserted, tick, epoch, _,
    (write_inv hw).2.writes.outputs⟩

theorem RegsOnly.writePair {s t u : State} {a : Byte} {v : Addr} (h : RegsOnly s t)
    (hw : t.writePair a v = .ok u) : RegsOnly s u := by
  obtain ⟨w, h1, h2⟩ := bind_ok_inv hw
  exact (h.write h1).write h2

theorem RegsOnly.push {s t u : State} {v : Byte} (h : RegsOnly s t) (hp : t.push v = .ok u) : RegsOnly s u :=
  (h.setReg spAddr (t.sp - 1#8)).write hp

theorem RegsOnly.pop {s t : State} {k : Nat} {r : Byte × State} (h : RegsOnly s t) (hp : t.pop k = .ok r) :
    RegsOnly s r.2 := by
  rw [(pop_inv hp).2]
  exact h.setReg _ _

/-! ### The shared operations that change registers alone -/

section Shapes
variable {s t : State}

theorem binop_regsOnly {alu : Byte → Byte → Flags → Byte × Flags} {len : Nat} {dst : Byte}
    {src : Except Fault Byte} (h : binop alu len dst src s = .ok t) : RegsOnly s t := by
  obtain ⟨_, -, h⟩ := bind_ok_inv h
  obtain ⟨_, -, h⟩ := bind_ok_inv h
  obtain ⟨_, -, h⟩ := bind_ok_inv h
  obtain ⟨w, hw, h⟩ := bind_ok_inv h
  cases h
  exact (((RegsOnly.refl s).write hw).setFlags _).advance len

theorem testop_regsOnly {alu : Byte → Byte → Flags → Byte × Flags} {len : Nat} {dst : Byte}
    {src : Except Fault Byte} (h : testop alu len dst src s = .ok t) : RegsOnly s t := by
  obtain ⟨_, -, h⟩ := bind_ok_inv h
  obtain ⟨_, -, h⟩ := bind_ok_inv h
  cases h
  exact ((RegsOnly.refl s).setFlags _).advance len

theorem op2_regsOnly {op : Op2} {len : Nat} {dst : Byte} {src : Except Fault Byte}
    (h : op.run len dst src s = .ok t) : RegsOnly s t := by
  by_cases tests : op ∈ [.tcm, .tm, .cp]
  · obtain ⟨alu, run⟩ := Op2.run_of_tests tests
    rw [run] at h
    exact testop_regsOnly h
  · obtain ⟨alu, run⟩ := Op2.run_of_writes tests
    rw [run] at h
    exact binop_regsOnly h

theorem unop_regsOnly {alu : Byte → Flags → Byte × Flags} {len : Nat} {a : Byte} (h : unop alu len a s = .ok t) :
    RegsOnly s t := by
  obtain ⟨_, -, h⟩ := bind_ok_inv h
  obtain ⟨_, -, h⟩ := bind_ok_inv h
  obtain ⟨w, hw, h⟩ := bind_ok_inv h
  cases h
  exact (((RegsOnly.refl s).write hw).setFlags _).advance len

theorem loadReg_regsOnly {len : Nat} {a : Byte} {src : Except Fault Byte} (h : loadReg len a src s = .ok t) :
    RegsOnly s t := by
  obtain ⟨_, -, h⟩ := bind_ok_inv h
  obtain ⟨w, hw, h⟩ := bind_ok_inv h
  cases h
  exact ((RegsOnly.refl s).write hw).advance len

theorem popTo_regsOnly {a : Byte} (h : popTo a s = .ok t) : RegsOnly s t := by
  unfold popTo at h
  split at h
  · cases h
  · obtain ⟨_, -, h⟩ := bind_ok_inv h
    obtain ⟨w, hw, h⟩ := bind_ok_inv h
    cases h
    exact (((RegsOnly.refl s).write hw).setReg _ _).advance 2

theorem pushFrom_regsOnly {a : Byte} (h : pushFrom a s = .ok t) : RegsOnly s t := by
  unfold pushFrom at h
  split at h
  · cases h
  · obtain ⟨_, -, h⟩ := bind_ok_inv h
    obtain ⟨w, hw, h⟩ := bind_ok_inv h
    cases h
    exact ((RegsOnly.refl s).push hw).advance 2

theorem op1_regsOnly {op : Op1} {a : Byte} (h : op.run a s = .ok t) : RegsOnly s t := by
  cases op with
  | pop => exact popTo_regsOnly h
  | push => exact pushFrom_regsOnly h
  | clr => exact loadReg_regsOnly h
  | dec | rlc | inc | com | rl | rrc | sra | rr => exact unop_regsOnly h

theorem loadStep_regsOnly {load : State → Addr → Except Fault Byte} {delta : Addr} {d : WReg} {p : Pair}
    (h : loadStep load delta d p s = .ok t) : RegsOnly s t := by
  unfold loadStep at h
  split at h
  · cases h
  · obtain ⟨_, -, h⟩ := bind_ok_inv h
    obtain ⟨_, -, h⟩ := bind_ok_inv h
    obtain ⟨w, hw, h⟩ := bind_ok_inv h
    obtain ⟨x, hx, h⟩ := bind_ok_inv h
    cases h
    exact (((RegsOnly.refl s).write hw).writePair hx).advance 2

theorem callTo_regsOnly {len : Nat} {target : Addr} (h : callTo len target s = .ok t) : RegsOnly s t := by
  obtain ⟨s1, h1, h⟩ := bind_ok_inv h
  obtain ⟨s2, h2, h⟩ := bind_ok_inv h
  cases h
  exact (((RegsOnly.refl s).push h1).push h2).setPc target

theorem returnFromCall_regsOnly (h : returnFromCall s = .ok t) : RegsOnly s t := by
  obtain ⟨_, h1, h⟩ := bind_ok_inv h
  obtain ⟨_, h2, h⟩ := bind_ok_inv h
  cases h
  exact (((RegsOnly.refl s).pop h1).pop h2).setPc _

theorem returnFromInterrupt_regsOnly (h : returnFromInterrupt s = .ok t) : RegsOnly s t := by
  obtain ⟨_, h1, h⟩ := bind_ok_inv h
  obtain ⟨_, h2, h⟩ := bind_ok_inv h
  obtain ⟨_, h3, h⟩ := bind_ok_inv h
  obtain ⟨_, h4, h⟩ := bind_ok_inv h
  cases h
  exact (((((RegsOnly.refl s).pop h1).write h2).pop h3).pop h4).setReg _ _ |>.setPc _

theorem takeInterrupt_regsOnly (h : takeInterrupt s = .ok t) : RegsOnly s t := by
  obtain ⟨_, h1, h⟩ := bind_ok_inv h
  obtain ⟨_, h2, h⟩ := bind_ok_inv h
  obtain ⟨_, -, h⟩ := bind_ok_inv h
  obtain ⟨_, h3, h⟩ := bind_ok_inv h
  obtain ⟨_, -, h⟩ := bind_ok_inv h
  obtain ⟨_, -, h⟩ := bind_ok_inv h
  cases h
  exact ((((RegsOnly.refl s).push h1).push h2).push h3).setReg _ _ |>.setPc _

theorem jumpTo_regsOnly {target : Except Fault Addr} (h : jumpTo target s = .ok t) : RegsOnly s t := by
  obtain ⟨_, -, h⟩ := bind_ok_inv h
  cases h
  exact (RegsOnly.refl s).setPc _

theorem jumpIf_regsOnly (cc : Cond) (len : Nat) (target : Addr) : RegsOnly s (jumpIf cc len target s) := by
  unfold jumpIf
  split
  · exact (RegsOnly.refl s).setPc target
  · exact (RegsOnly.refl s).advance len

end Shapes

/-! ### What an instruction can change -/

/-- What an instruction that goes on has changed: registers, pc and output events alone; or one memory, by an allowed
store in range; or the run state, past IDLE or STOP. -/
inductive Changes (s : State) : Instr → State → Prop where
  | registers {i : Instr} {t : State} (only : RegsOnly s t) : Changes s i t
  | program (f : MemForm) (r : WReg) (A : Addr) (v : Byte) (len : Nat) (writable : s.cfg.pmWritable = true)
      (inRange : A.toNat < s.cfg.pmSize.val) :
      Changes s (Space.program.store f r) (({ s with
        pm := Memory.write s.pm A.toNat v
        pmWritten := insertAddr s.pmWritten A.toNat } : State).advance len)
  | data (f : MemForm) (r : WReg) (A : Addr) (v : Byte) (len : Nat) (inRange : A.toNat < s.cfg.dmSize.val) :
      Changes s (Space.data.store f r) (({ s with dm := Memory.write s.dm A.toNat v } : State).advance len)
  | halt {i : Instr} (r : RunState) (halting : i = .idle ∨ i = .stop) :
      Changes s i { s.advance 1 with runState := r }

theorem store_changes {s t : State} {m : Space} {f : MemForm} {r : WReg} (h : exec (m.store f r) s = .next t) :
    Changes s (m.store f r) t := by
  rw [exec_memStore, finish_eq_next] at h
  obtain ⟨A, -, h⟩ := bind_ok_inv h
  obtain ⟨v, -, h⟩ := bind_ok_inv h
  obtain ⟨w, hw, h⟩ := bind_ok_inv h
  cases h
  cases m with
  | program =>
    obtain ⟨writable, inRange, rfl⟩ := pmStore_inv hw
    exact .program f r A v f.len writable inRange
  | data =>
    obtain ⟨inRange, rfl⟩ := dmStore_inv hw
    exact .data f r A v f.len inRange

theorem stop_changes {s t : State} (h : exec .stop s = .next t) : Changes s .stop t := by
  cases configured : s.cfg.stopconAddr with
  | none =>
    rw [exec_stop_open configured] at h
    cases h
  | some a =>
    by_cases key : s.reg a = stopKey
    · rw [exec_stop_key configured key] at h
      cases h
      exact .halt .stop (.inr rfl)
    · rw [exec_stop_noKey configured key] at h
      cases h
      exact .registers ((RegsOnly.refl s).setPc _)

/-- Everything an instruction that goes on can change. -/
theorem exec_changes {i : Instr} {s t : State} (h : exec i s = .next t) : Changes s i t := by
  cases Shape.of i with
  | twoOperand op f =>
    rw [exec_op2, finish_eq_next] at h
    exact .registers (op2_regsOnly h)
  | oneOperand op f =>
    rw [exec_op1, finish_eq_next] at h
    obtain ⟨a, -, h⟩ := bind_ok_inv h
    exact .registers (op1_regsOnly h)
  | incWorking n => exact .registers (unop_regsOnly (finish_eq_next.1 h))
  | ld f =>
    rw [exec_ld, finish_eq_next] at h
    obtain ⟨a, -, h⟩ := bind_ok_inv h
    exact .registers (loadReg_regsOnly h)
  | memLoad m d f =>
    rw [exec_memLoad, finish_eq_next] at h
    obtain ⟨A, -, h⟩ := bind_ok_inv h
    exact .registers (loadReg_regsOnly h)
  | memStore m f r => exact store_changes h
  | memStep m up d p =>
    rw [exec_memStep, finish_eq_next] at h
    exact .registers (loadStep_regsOnly h)
  | callDirect a => exact .registers (callTo_regsOnly (finish_eq_next.1 h))
  | callPair a =>
    obtain ⟨target, called⟩ := callThrough_inv (finish_eq_next.1 h)
    exact .registers (callTo_regsOnly called)
  | iret => exact .registers (returnFromInterrupt_regsOnly (finish_eq_next.1 h))
  | ret => exact .registers (returnFromCall_regsOnly (finish_eq_next.1 h))
  | jumpPair a => exact .registers (jumpTo_regsOnly (finish_eq_next.1 h))
  | jumpIf cc a =>
    cases h
    exact .registers (jumpIf_regsOnly cc 3 a)
  | jumpRelative cc ra =>
    cases h
    exact .registers (jumpIf_regsOnly cc 2 _)
  | ccf | rcf | scf =>
    cases h
    exact .registers (((RegsOnly.refl s).setFlags _).advance 1)
  | di | ei =>
    cases h
    exact .registers (((RegsOnly.refl s).setReg _ _).advance 1)
  | nop =>
    cases h
    exact .registers ((RegsOnly.refl s).advance 1)
  | idle =>
    cases h
    exact .halt .idle (.inl rfl)
  | stop => exact stop_changes h

/-- Settles O58, from the four ways an instruction can change the state. -/
theorem instructionFrame : Obligations.InstructionFrame := by
  intro i s t h
  cases exec_changes h with
  | registers only =>
    refine ⟨⟨only.cfg, only.pending, only.resetAsserted, only.tick, only.epoch⟩, fun _ a => ?_,
      fun _ => only.pmWritten, fun _ a => ?_, fun _ _ => only.runState, only.outputs⟩
    · simp only [State.pmByte, only.pm]
    · simp only [State.dmByte, only.dm, only.epoch]
  | program f r =>
    exact ⟨⟨rfl, rfl, rfl, rfl, rfl⟩, fun no => absurd ⟨f, r, rfl⟩ no, fun no => absurd ⟨f, r, rfl⟩ no,
      fun _ _ => rfl, fun _ _ => rfl, [], (List.append_nil _).symm⟩
  | data f r =>
    exact ⟨⟨rfl, rfl, rfl, rfl, rfl⟩, fun _ _ => rfl, fun _ => rfl, fun no => absurd ⟨f, r, rfl⟩ no,
      fun _ _ => rfl, [], (List.append_nil _).symm⟩
  | halt r halting =>
    refine ⟨⟨rfl, rfl, rfl, rfl, rfl⟩, fun _ _ => rfl, fun _ => rfl, fun _ _ => rfl, fun notIdle notStop => ?_,
      [], (List.append_nil _).symm⟩
    rcases halting with rfl | rfl
    · exact absurd rfl notIdle
    · exact absurd rfl notStop

/-! ### What a step can do -/

theorem runInstr_inv {s t : State} (h : runInstr s = .next t) : ∃ i, exec i s = .next t := by
  unfold runInstr at h
  split at h
  · exact ⟨_, h⟩
  · cases h

/-- Everything a boundary can do: the reset, an interrupt entry, one instruction, or a halted step that leaves all but
the run state. -/
theorem boundary_inv {s t : State} (h : boundary s = .next t) :
    t = takeReset s ∨ (∃ r, takeInterrupt { s with runState := r } = .ok t) ∨ (∃ i, exec i s = .next t) ∨
      ∃ r, t = { s with runState := r } := by
  have halted : haltedBoundary s = .next t →
      (∃ r, takeInterrupt { s with runState := r } = .ok t) ∨ ∃ r, t = { s with runState := r } := fun h => by
    unfold haltedBoundary at h
    split at h
    · split at h
      · exact .inl ⟨.running, finish_eq_next.1 h⟩
      · split at h <;> cases h
        · exact .inr ⟨.running, rfl⟩
        · exact .inr ⟨s.runState, rfl⟩
    · cases h
      exact .inr ⟨s.runState, rfl⟩
  unfold boundary at h
  split at h
  · cases h
    exact .inl rfl
  · split at h
    · unfold runningBoundary at h
      split at h
      · exact .inr (.inl ⟨s.runState, finish_eq_next.1 h⟩)
      · exact .inr (.inr (.inl (runInstr_inv h)))
    · exact .inr ((halted h).imp_right .inr)
    · exact .inr ((halted h).imp_right .inr)

theorem step_inv {s t : State} (h : step s = .next t) :
    ∃ u, boundary s = .next u ∧ t = { u with tick := u.tick + 1 } := by
  unfold step at h
  cases hb : boundary s with
  | next u =>
    rw [hb] at h
    cases h
    exact ⟨u, rfl, rfl⟩
  | fault f =>
    rw [hb] at h
    cases h
  | refused r =>
    rw [hb] at h
    cases h

/-! ### The invariant of the memories -/

/-- The invariant is about the parameters and the memories alone. -/
theorem State.MemoryInv.congr {s t : State} (inv : s.MemoryInv) (cfg : t.cfg = s.cfg) (pm : t.pm = s.pm)
    (written : t.pmWritten = s.pmWritten) (dm : t.dm = s.dm) : t.MemoryInv := by
  obtain ⟨pmWf, dmWf, dmBound, rising, bound, listed, masked⟩ := inv
  constructor <;> simpa only [cfg, pm, written, dm]

/-- A store to program memory keeps the invariant. -/
theorem State.MemoryInv.storeProgram {s : State} (inv : s.MemoryInv) {a : Nat} (v : Byte)
    (writable : s.cfg.pmWritable = true) (inRange : a < s.cfg.pmSize.val) :
    ({ s with pm := Memory.write s.pm a v, pmWritten := insertAddr s.pmWritten a } : State).MemoryInv where
  pmWf := write_wf inv.pmWf a v
  dmWf := inv.dmWf
  dmBound := inv.dmBound
  writtenRising := insertAddr_rising inv.writtenRising a
  writtenBound b hb := by
    rcases mem_insertAddr.1 hb with rfl | hb
    · exact inRange
    · exact inv.writtenBound b hb
  writtenListed b hb := by
    simp only [find?_write]
    split
    next => exact ⟨v, rfl⟩
    next ne => exact inv.writtenListed b ((mem_insertAddr.1 hb).resolve_left ne)
  writtenMasked masked := by
    rw [writable] at masked
    cases masked

/-- A store to data memory keeps the invariant. -/
theorem State.MemoryInv.storeData {s : State} (inv : s.MemoryInv) {a : Nat} (v : Byte)
    (inRange : a < s.cfg.dmSize.val) : ({ s with dm := Memory.write s.dm a v } : State).MemoryInv where
  pmWf := inv.pmWf
  dmWf := write_wf inv.dmWf a v
  dmBound c hc := by
    rcases mem_write hc with rfl | hc
    · exact inRange
    · exact inv.dmBound c hc
  writtenRising := inv.writtenRising
  writtenBound := inv.writtenBound
  writtenListed := inv.writtenListed
  writtenMasked := inv.writtenMasked

theorem RegsOnly.memoryInv {s t : State} (h : RegsOnly s t) (inv : s.MemoryInv) : t.MemoryInv :=
  inv.congr h.cfg h.pm h.pmWritten h.dm

theorem exec_keeps_memoryInv {i : Instr} {s t : State} (inv : s.MemoryInv) (h : exec i s = .next t) :
    t.MemoryInv := by
  cases exec_changes h with
  | registers only => exact only.memoryInv inv
  | program f r A v len writable inRange => exact (inv.storeProgram v writable inRange).congr rfl rfl rfl rfl
  | data f r A v len inRange => exact (inv.storeData v inRange).congr rfl rfl rfl rfl
  | halt r halting => exact inv.congr rfl rfl rfl rfl

/-- After a reset nothing is written, data memory lists nothing, and program memory is as it was. -/
theorem takeReset_keeps_memoryInv {s : State} (inv : s.MemoryInv) : (takeReset s).MemoryInv := by
  obtain ⟨-, -, -, -, written, pm, dm⟩ := takeReset_frame s
  constructor
  case pmWf => rw [pm]; exact inv.pmWf
  case dmWf => rw [dm]; exact List.Pairwise.nil
  case dmBound => rw [dm]; exact nofun
  case writtenRising => rw [written]; exact List.Pairwise.nil
  case writtenBound => rw [written]; exact nofun
  case writtenListed => rw [written]; exact nofun
  case writtenMasked => exact fun _ => written

/-- Settles O55: each thing a boundary can do keeps the invariant. -/
theorem stepKeepsMemoryInv : Obligations.StepKeepsMemoryInv := by
  intro s t inv h
  obtain ⟨u, hb, rfl⟩ := step_inv h
  have kept : u.MemoryInv := by
    rcases boundary_inv hb with rfl | ⟨r, entered⟩ | ⟨i, run⟩ | ⟨r, rfl⟩
    · exact takeReset_keeps_memoryInv inv
    · exact (takeInterrupt_regsOnly entered).memoryInv (inv.congr rfl rfl rfl rfl)
    · exact exec_keeps_memoryInv inv run
    · exact inv.congr rfl rfl rfl rfl
  exact kept.congr rfl rfl rfl rfl

/-- Settles O56: nothing is listed or written yet. -/
theorem resetMemoryInv : Obligations.ResetMemoryInv where
  pmWf := reset_memory_wf.1
  dmWf := reset_memory_wf.2
  dmBound := nofun
  writtenRising := List.Pairwise.nil
  writtenBound := nofun
  writtenListed := nofun
  writtenMasked _ := rfl

/-! ### Masked ROM -/

/-- An instruction of a masked-ROM device leaves the parameters and the list of program memory as they are. -/
theorem exec_keeps_rom {i : Instr} {s t : State} (masked : s.cfg.pmWritable = false) (h : exec i s = .next t) :
    t.cfg = s.cfg ∧ t.pm = s.pm := by
  cases exec_changes h with
  | registers only => exact ⟨only.cfg, only.pm⟩
  | program f r A v len writable =>
    rw [masked] at writable
    cases writable
  | data f r A v len inRange => exact ⟨rfl, rfl⟩
  | halt r halting => exact ⟨rfl, rfl⟩

theorem step_keeps_rom {s t : State} (masked : s.cfg.pmWritable = false) (h : step s = .next t) :
    t.cfg = s.cfg ∧ t.pm = s.pm := by
  obtain ⟨u, hb, rfl⟩ := step_inv h
  rcases boundary_inv hb with rfl | ⟨r, entered⟩ | ⟨i, run⟩ | ⟨r, rfl⟩
  · obtain ⟨-, -, -, cfg, -, pm, -⟩ := takeReset_frame s
    exact ⟨cfg, pm⟩
  · have only := takeInterrupt_regsOnly entered
    exact ⟨only.cfg, only.pm⟩
  · exact exec_keeps_rom (t := u) masked run
  · exact ⟨rfl, rfl⟩

theorem env_keeps_rom {s t : State} (h : EnvAction s t) : t.cfg = s.cfg ∧ t.pm = s.pm := by
  cases h <;> exact ⟨rfl, rfl⟩

/-- Along every run of a masked-ROM device. -/
theorem reaches_keeps_rom {s t : State} (masked : s.cfg.pmWritable = false) (h : Reaches s t) :
    t.cfg = s.cfg ∧ t.pm = s.pm := by
  induction h with
  | refl => exact ⟨rfl, rfl⟩
  | step _ hs ih =>
    obtain ⟨cfg, pm⟩ := step_keeps_rom (by rw [ih.1]; exact masked) hs
    exact ⟨cfg.trans ih.1, pm.trans ih.2⟩
  | env _ he ih =>
    obtain ⟨cfg, pm⟩ := env_keeps_rom he
    exact ⟨cfg.trans ih.1, pm.trans ih.2⟩

/-- Settles O57, by induction on the run. -/
theorem maskedRomIsConstant : Obligations.MaskedRomIsConstant := by
  intro s t masked run
  obtain ⟨cfg, pm⟩ := reaches_keeps_rom masked run
  exact ⟨cfg, fun a => by simp only [State.pmByte, pm]⟩

end Sys2Proof.Machine
end

section
/-! PROOFS. Why an instruction can stop: for every shape, each fault it raises stands in the row of the table that names
its cause (60_exceptions R180). -/

namespace Sys2Proof.Claims

open Sys2Proof Sys2Proof.Machine

/-- The cause that R180's table gives for each fault that an instruction can raise. -/
inductive StopCause (s : State) (i : Instr) : Fault → Prop where
  | missing (a : Byte) (absent : s.classOf a = .absent) : StopCause s i (.unimplementedRegister a)
  | unpredictable (row : Unpredictable s i) : StopCause s i .unpredictable
  | outOfRange (m : Space) (A : Addr) (beyond : m.size s ≤ A.toNat) (own : Addresses s m A i) :
      StopCause s i (.addressOutOfRange A)
  | oddPair (a : Byte) (odd : a.getLsbD 0 = true) (through : i = .jp_ipair a ∨ i = .call_ipair a) :
      StopCause s i (.oddRegisterPair a)
  | maskedRom (store : StoresProgram i) (masked : s.cfg.pmWritable = false) :
      StopCause s i .progMemWriteUnsupported
  | notConfigured (isStop : i = .stop) (unset : s.cfg.stopconAddr = none) : StopCause s i .parameterOpen

section Causes
variable {s : State} {e : Fault}

theorem StopCause.of_missing {i : Instr} (h : MissingRegister s e) : StopCause s i e := by
  obtain ⟨a, rfl, absent⟩ := h
  exact .missing a absent

theorem Form2.src_stop {f : Form2} (h : f.src s = .error e) : MissingRegister s e := by
  cases f with
  | rr | rgrg => exact read_stop h
  | rir | rgir => exact srcThrough_stop h
  | rgim => cases h

theorem Form1.loc_stop {f : Form1} (h : f.loc s = .error e) : MissingRegister s e := by
  cases f with
  | rg => cases h
  | ir => exact read_stop h

theorem LdForm.dst_stop {f : LdForm} (h : f.dst s = .error e) : MissingRegister s e := by
  cases f with
  | rim | rrg | rir | rx | rgr | rgrg | rgir | rgim => cases h
  | irr | irim | irrg => exact read_stop h
  | xr x i r => exact indexed_stop ((indexed_eq_map s x i).trans h)

theorem LdForm.src_stop {f : LdForm} (h : f.src s = .error e) : MissingRegister s e := by
  cases f with
  | rim | rgim | irim => cases h
  | rrg | rgrg | irrg | rgr | irr | xr => exact read_stop h
  | rir | rgir => exact srcThrough_stop h
  | rx d x i => exact srcIndexed_stop ((srcIndexed_eq_bind s x i).trans h)

theorem Space.read_stop {m : Space} {A : Addr} (h : m.read s A = .error e) :
    e = .addressOutOfRange A ∧ m.size s ≤ A.toNat := by
  cases m with
  | program => exact pmLoad_stop h
  | data => exact dmLoad_stop h

/-- A store that stops is one that masked ROM forbids, or is out of range. -/
theorem Space.write_stop {m : Space} {A : Addr} {v : Byte} (h : m.write s A v = .error e) :
    (m = .program ∧ e = .progMemWriteUnsupported ∧ s.cfg.pmWritable = false) ∨
      (e = .addressOutOfRange A ∧ m.size s ≤ A.toNat ∧ (m = .program → s.cfg.pmWritable = true)) := by
  cases m with
  | program =>
    rcases pmStore_stop h with ⟨he, masked⟩ | ⟨he, writable, beyond⟩
    · exact .inl ⟨rfl, he, masked⟩
    · exact .inr ⟨he, beyond, fun _ => writable⟩
  | data =>
    obtain ⟨he, beyond⟩ := dmStore_stop h
    exact .inr ⟨he, beyond, nofun⟩

theorem op2_stop {op : Op2} {f : Form2} (h : op.run f.len (f.dst s) (f.src s) s = .error e) :
    StopCause s (op.instr f) e := by
  by_cases tests : op ∈ [.tcm, .tm, .cp]
  · obtain ⟨alu, run⟩ := Op2.run_of_tests tests
    rw [run] at h
    rcases testop_stop h with h | h
    · exact .of_missing (Form2.src_stop h)
    · exact .of_missing h
  · obtain ⟨alu, run⟩ := Op2.run_of_writes tests
    rw [run] at h
    rcases binop_stop h with ⟨flags, rfl⟩ | h | h
    · exact .unpredictable (.twoOperand op f tests flags)
    · exact .of_missing (Form2.src_stop h)
    · exact .of_missing h

theorem op1_stop {op : Op1} {f : Form1} {a : Byte} (hl : f.loc s = .ok a) (h : op.run a s = .error e) :
    StopCause s (op.instr f) e := by
  by_cases writes : op ∉ [.pop, .push, .clr]
  · obtain ⟨alu, run⟩ := Op1.run_of_writes writes
    rw [run] at h
    rcases unop_stop h with ⟨rfl, rfl⟩ | h
    · exact .unpredictable (.oneOperand op f writes hl)
    · exact .of_missing h
  · cases op with
    | pop =>
      rcases popTo_stop h with ⟨rfl, rfl⟩ | h
      · exact .unpredictable (.stackPointer .pop f (by decide) hl)
      · exact .of_missing h
    | push =>
      rcases pushFrom_stop h with ⟨rfl, rfl⟩ | h
      · exact .unpredictable (.stackPointer .push f (by decide) hl)
      · exact .of_missing h
    | clr =>
      rcases loadReg_stop h with h | h
      · cases h
      · exact .of_missing h
    | dec | rlc | inc | com | rl | rrc | sra | rr => exact absurd (by decide) writes

theorem ld_stop {f : LdForm} (h : (f.dst s >>= fun a => loadReg f.len a (f.src s) s) = .error e) :
    MissingRegister s e := by
  rcases bind_error_inv h with h | ⟨a, -, h⟩
  · exact LdForm.dst_stop h
  · rcases loadReg_stop h with h | h
    · exact LdForm.src_stop h
    · exact h

theorem memLoad_stop {m : Space} {d : WReg} {f : MemForm} (h : exec (m.load d f) s = .fault e) :
    StopCause s (m.load d f) e := by
  obtain ⟨A, ha⟩ := f.addr_ok s
  rw [exec_memLoad_at ha, finish_eq_fault] at h
  rcases loadReg_stop h with h | h
  · obtain ⟨rfl, beyond⟩ := Space.read_stop h
    exact .outOfRange m A beyond (.load d f ha)
  · exact .of_missing h

theorem memStore_stop {m : Space} {f : MemForm} {r : WReg} (h : exec (m.store f r) s = .fault e) :
    StopCause s (m.store f r) e := by
  obtain ⟨A, ha⟩ := f.addr_ok s
  obtain ⟨v, hv⟩ := read_wr_ok s 2 r
  rw [exec_memStore_at ha hv, finish_eq_fault] at h
  rcases bind_error_inv h with h | ⟨t, -, h⟩
  · rcases Space.write_stop h with ⟨rfl, rfl, masked⟩ | ⟨rfl, beyond, allowed⟩
    · exact .maskedRom ⟨f, r, rfl⟩ masked
    · exact .outOfRange m A beyond (.store f r ha allowed)
  · cases h

theorem memStep_stop {m : Space} {up : Bool} {d : WReg} {p : Pair} (h : exec (m.loadStep up d p) s = .fault e) :
    StopCause s (m.loadStep up d p) e := by
  rw [exec_memStep, finish_eq_fault] at h
  rcases loadStep_stop h with ⟨inPair, rfl⟩ | h | ⟨A, ha, h⟩
  · exact .unpredictable (.ownPair m up d p inPair)
  · exact .of_missing h
  · obtain ⟨rfl, beyond⟩ := Space.read_stop h
    exact .outOfRange m A beyond (.loadStep up d p ha)

theorem callPair_stop {a : Byte} (h : callThrough a s = .error e) : StopCause s (.call_ipair a) e := by
  rcases callThrough_stop h with ⟨odd, rfl⟩ | ⟨even, overlap, rfl⟩ | h
  · exact .oddPair a odd (.inr rfl)
  · obtain ⟨b, inPair, meets⟩ := pairMeetsStack_inv overlap
    exact .unpredictable (.callOverlap a b even inPair meets)
  · exact .of_missing h

theorem jumpPair_stop {a : Byte} (h : jumpTo (s.addrIpair a) s = .error e) : StopCause s (.jp_ipair a) e := by
  rcases jumpThrough_stop h with ⟨odd, rfl⟩ | h
  · exact .oddPair a odd (.inl rfl)
  · exact .of_missing h

theorem stop_stop (h : exec .stop s = .fault e) : StopCause s .stop e := by
  cases configured : s.cfg.stopconAddr with
  | none =>
    rw [exec_stop_open configured] at h
    cases h
    exact .notConfigured rfl configured
  | some a =>
    by_cases key : s.reg a = stopKey
    · rw [exec_stop_key configured key] at h
      cases h
    · rw [exec_stop_noKey configured key] at h
      cases h

/-- Every fault that an instruction raises has its cause. -/
theorem exec_stop_cause {i : Instr} (h : exec i s = .fault e) : StopCause s i e := by
  cases Shape.of i with
  | twoOperand op f =>
    rw [exec_op2, finish_eq_fault] at h
    exact op2_stop h
  | oneOperand op f =>
    rw [exec_op1, finish_eq_fault] at h
    rcases bind_error_inv h with h | ⟨a, hl, h⟩
    · exact .of_missing (Form1.loc_stop h)
    · exact op1_stop hl h
  | incWorking n =>
    rw [exec_inc_r, finish_eq_fault] at h
    rcases unop_stop h with ⟨flags, rfl⟩ | h
    · exact .unpredictable (.incWorking n flags)
    · exact .of_missing h
  | ld f =>
    rw [exec_ld, finish_eq_fault] at h
    exact .of_missing (ld_stop h)
  | memLoad m d f => exact memLoad_stop h
  | memStore m f r => exact memStore_stop h
  | memStep m up d p => exact memStep_stop h
  | callDirect a => exact .of_missing (callTo_stop (finish_eq_fault.1 h))
  | callPair a => exact callPair_stop (finish_eq_fault.1 h)
  | iret => exact .of_missing (returnFromInterrupt_stop (finish_eq_fault.1 h))
  | ret => exact .of_missing (returnFromCall_stop (finish_eq_fault.1 h))
  | jumpPair a => exact jumpPair_stop (finish_eq_fault.1 h)
  | stop => exact stop_stop h
  | jumpIf | jumpRelative | ccf | di | ei | idle | nop | rcf | scf => cases h

end Causes

/-- The meaning of every instruction is a state or a fault. -/
theorem exec_eq_finish (i : Instr) (s : State) : ∃ r, exec i s = finish r := by
  cases Shape.of i with
  | twoOperand op f => exact ⟨_, exec_op2 op f s⟩
  | oneOperand op f => exact ⟨_, exec_op1 op f s⟩
  | ld f => exact ⟨_, exec_ld f s⟩
  | memLoad m d f => exact ⟨_, exec_memLoad m d f s⟩
  | memStore m f r => exact ⟨_, exec_memStore m f r s⟩
  | memStep m up d p => exact ⟨_, exec_memStep m up d p s⟩
  | incWorking | callDirect | callPair | iret | ret | jumpPair => exact ⟨_, rfl⟩
  | jumpIf | jumpRelative | ccf | di | ei | idle | nop | rcf | scf => exact ⟨.ok _, rfl⟩
  | stop =>
    cases configured : s.cfg.stopconAddr with
    | none => exact ⟨.error _, exec_stop_open configured⟩
    | some a =>
      by_cases key : s.reg a = stopKey
      · exact ⟨.ok _, exec_stop_key configured key⟩
      · exact ⟨.ok _, exec_stop_noKey configured key⟩

/-- Settles O59, from the cause of each fault. -/
theorem instructionFaultCauses : Obligations.InstructionFaultCauses := by
  intro i s
  refine ⟨fun r h => ?refused, fun b h => ?illegal, fun a h => ?modified, fun A h => ?range, fun a h => ?odd,
    fun h => ?unpredictable, fun a h => ?missing, fun h => ?masked, fun h => ?unset⟩
  case refused =>
    obtain ⟨result, hr⟩ := exec_eq_finish i s
    rw [hr] at h
    exact finish_ne_refused _ _ h
  case illegal => cases exec_stop_cause h
  case modified => cases exec_stop_cause h
  case range =>
    cases exec_stop_cause h with
    | outOfRange m A beyond own => exact ⟨m, beyond, own⟩
  case odd =>
    cases exec_stop_cause h with
    | oddPair a odd through => exact ⟨odd, through⟩
  case unpredictable =>
    cases exec_stop_cause h with
    | unpredictable row => exact row
  case missing =>
    cases exec_stop_cause h with
    | missing a absent => exact absent
  case masked =>
    cases exec_stop_cause h with
    | maskedRom store masked => exact ⟨store, masked⟩
  case unset =>
    cases exec_stop_cause h with
    | notConfigured isStop unset => exact ⟨isStop, unset⟩

end Sys2Proof.Claims
end

section
/-! PROOFS. No instruction sees the pending requests or the reset line: every shared operation answers the same from a
state that differs in these two fields, and leaves them as it found them (60_exceptions R182, R184, R186). -/

namespace Sys2Proof.Machine

open Sys2Proof Sys2Proof.Claims

/-- The state with the environment's two fields replaced. -/
def State.withRequests (p : List Request) (b : Bool) (s : State) : State := { s with pending := p, resetAsserted := b }

/-- An outcome with its state, where there is one, changed by `g`. -/
def onNext (g : State → State) : Host.Outcome State Fault Refusal → Host.Outcome State Fault Refusal
  | .next t => .next (g t)
  | .fault f => .fault f
  | .refused r => .refused r

theorem finish_map (g : State → State) (r : Except Fault State) : finish (r.map g) = onNext g (finish r) := by
  cases r <;> rfl

theorem map_bind_except {α β γ : Type} (g : α → β) (x : Except Fault α) (f : β → Except Fault γ) :
    (x.map g >>= f) = x >>= fun a => f (g a) := by
  cases x <;> rfl

theorem bind_map_except {α β γ : Type} (g : β → γ) (x : Except Fault α) (f : α → Except Fault β) :
    (x >>= f).map g = x >>= fun a => (f a).map g := by
  cases x <;> rfl

section Requests
variable (p : List Request) (b : Bool) (s : State)

theorem withRequests_classOf (a : Byte) : (s.withRequests p b).classOf a = s.classOf a := rfl
theorem withRequests_sp : (s.withRequests p b).sp = s.sp := rfl
theorem withRequests_flags : (s.withRequests p b).flags = s.flags := rfl
theorem withRequests_wr (n : WReg) : (s.withRequests p b).wr n = s.wr n := rfl
theorem withRequests_pairAddr (q : Pair) : (s.withRequests p b).pairAddr q = s.pairAddr q := rfl
theorem withRequests_npc (n : Nat) : (s.withRequests p b).npc n = s.npc n := rfl
theorem withRequests_read (k : Nat) (a : Byte) : (s.withRequests p b).read k a = s.read k a := rfl
theorem withRequests_readPair (k : Nat) (a : Byte) : (s.withRequests p b).readPair k a = s.readPair k a := rfl
theorem withRequests_addrIrr (q : Pair) : (s.withRequests p b).addrIrr q = s.addrIrr q := rfl
theorem withRequests_pairMeetsStack (a : Byte) :
    (s.withRequests p b).pairMeetsStack a = s.pairMeetsStack a := rfl

theorem withRequests_write (a v : Byte) :
    (s.withRequests p b).write a v = (s.write a v).map (State.withRequests p b) := by
  simp only [State.write, withRequests_classOf]
  cases s.classOf a <;> rfl

theorem withRequests_writePair (a : Byte) (v : Addr) :
    (s.withRequests p b).writePair a v = (s.writePair a v).map (State.withRequests p b) := by
  simp only [State.writePair, withRequests_write, map_bind_except, bind_map_except]

theorem withRequests_push (v : Byte) :
    (s.withRequests p b).push v = (s.push v).map (State.withRequests p b) :=
  withRequests_write p b (s.setReg spAddr (s.sp - 1#8)) _ v

theorem withRequests_pop (k : Nat) :
    (s.withRequests p b).pop k = (s.pop k).map fun r => (r.1, r.2.withRequests p b) := by
  simp only [State.pop, withRequests_sp, withRequests_read, bind_map_except]
  rfl

theorem withRequests_binop (alu : Byte → Byte → Flags → Byte × Flags) (len : Nat) (dst : Byte)
    (src : Except Fault Byte) :
    binop alu len dst src (s.withRequests p b) = (binop alu len dst src s).map (State.withRequests p b) := by
  simp only [binop, withRequests_read, withRequests_flags, withRequests_write, map_bind_except, bind_map_except]
  rfl

theorem withRequests_testop (alu : Byte → Byte → Flags → Byte × Flags) (len : Nat) (dst : Byte)
    (src : Except Fault Byte) :
    testop alu len dst src (s.withRequests p b) = (testop alu len dst src s).map (State.withRequests p b) := by
  simp only [testop, withRequests_read, withRequests_flags, bind_map_except]
  rfl

theorem withRequests_unop (alu : Byte → Flags → Byte × Flags) (len : Nat) (a : Byte) :
    unop alu len a (s.withRequests p b) = (unop alu len a s).map (State.withRequests p b) := by
  simp only [unop, withRequests_read, withRequests_flags, withRequests_write, map_bind_except, bind_map_except]
  rfl

theorem withRequests_loadReg (len : Nat) (a : Byte) (src : Except Fault Byte) :
    loadReg len a src (s.withRequests p b) = (loadReg len a src s).map (State.withRequests p b) := by
  simp only [loadReg, withRequests_write, map_bind_except, bind_map_except]
  rfl

theorem withRequests_popTo (a : Byte) :
    popTo a (s.withRequests p b) = (popTo a s).map (State.withRequests p b) := by
  unfold popTo
  split
  · rfl
  · simp only [withRequests_read, withRequests_sp, withRequests_write, map_bind_except, bind_map_except]
    rfl

theorem withRequests_pushFrom (a : Byte) :
    pushFrom a (s.withRequests p b) = (pushFrom a s).map (State.withRequests p b) := by
  unfold pushFrom
  split
  · rfl
  · simp only [withRequests_read, withRequests_push, map_bind_except, bind_map_except]
    rfl

theorem withRequests_op2 (op : Op2) (len : Nat) (dst : Byte) (src : Except Fault Byte) :
    op.run len dst src (s.withRequests p b) = (op.run len dst src s).map (State.withRequests p b) := by
  by_cases tests : op ∈ [.tcm, .tm, .cp]
  · obtain ⟨alu, run⟩ := Op2.run_of_tests tests
    rw [run, withRequests_testop]
  · obtain ⟨alu, run⟩ := Op2.run_of_writes tests
    rw [run, withRequests_binop]

theorem withRequests_op1 (op : Op1) (a : Byte) :
    op.run a (s.withRequests p b) = (op.run a s).map (State.withRequests p b) := by
  cases op with
  | pop => exact withRequests_popTo p b s a
  | push => exact withRequests_pushFrom p b s a
  | clr => exact withRequests_loadReg p b s 2 a _
  | dec | rlc | inc | com | rl | rrc | sra | rr => exact withRequests_unop p b s _ 2 a

theorem withRequests_spaceRead (m : Space) (A : Addr) : m.read (s.withRequests p b) A = m.read s A := by
  cases m <;> rfl

theorem withRequests_spaceWrite (m : Space) (A : Addr) (v : Byte) :
    m.write (s.withRequests p b) A v = (m.write s A v).map (State.withRequests p b) := by
  cases m with
  | program =>
    show (s.withRequests p b).pmStore A v = (s.pmStore A v).map _
    simp only [State.pmStore, apply_ite (Except.map (State.withRequests p b))]
    rfl
  | data =>
    show (s.withRequests p b).dmStore A v = (s.dmStore A v).map _
    simp only [State.dmStore, apply_ite (Except.map (State.withRequests p b))]
    rfl

theorem withRequests_loadStep (m : Space) (delta : Addr) (d : WReg) (q : Pair) :
    loadStep m.read delta d q (s.withRequests p b) = (loadStep m.read delta d q s).map (State.withRequests p b) := by
  unfold loadStep
  rw [withRequests_wr, withRequests_pairAddr]
  split
  · rfl
  · simp only [withRequests_addrIrr, withRequests_spaceRead, withRequests_write, withRequests_writePair,
      map_bind_except, bind_map_except]
    rfl

theorem withRequests_callTo (len : Nat) (target : Addr) :
    callTo len target (s.withRequests p b) = (callTo len target s).map (State.withRequests p b) := by
  simp only [callTo, withRequests_npc, withRequests_push, map_bind_except, bind_map_except]
  rfl

theorem withRequests_callThrough (a : Byte) :
    callThrough a (s.withRequests p b) = (callThrough a s).map (State.withRequests p b) := by
  unfold callThrough
  rw [withRequests_pairMeetsStack]
  split
  · rfl
  · split
    · rfl
    · simp only [withRequests_readPair, withRequests_callTo, bind_map_except]

theorem withRequests_returnFromCall :
    returnFromCall (s.withRequests p b) = (returnFromCall s).map (State.withRequests p b) := by
  simp only [returnFromCall, withRequests_pop, map_bind_except, bind_map_except]
  rfl

theorem withRequests_returnFromInterrupt :
    returnFromInterrupt (s.withRequests p b) = (returnFromInterrupt s).map (State.withRequests p b) := by
  simp only [returnFromInterrupt, withRequests_pop, withRequests_write, map_bind_except, bind_map_except]
  rfl

theorem withRequests_jumpTo (target : Except Fault Addr) :
    jumpTo target (s.withRequests p b) = (jumpTo target s).map (State.withRequests p b) := by
  simp only [jumpTo, bind_map_except]
  rfl

theorem withRequests_jumpIf (cc : Cond) (len : Nat) (target : Addr) :
    jumpIf cc len target (s.withRequests p b) = (jumpIf cc len target s).withRequests p b := by
  unfold jumpIf
  rw [withRequests_flags]
  split <;> rfl

theorem withRequests_stop : exec .stop (s.withRequests p b) = onNext (State.withRequests p b) (exec .stop s) := by
  cases configured : s.cfg.stopconAddr with
  | none => rw [exec_stop_open configured, exec_stop_open (s := s.withRequests p b) configured]; rfl
  | some a =>
    by_cases key : s.reg a = stopKey
    · rw [exec_stop_key configured key, exec_stop_key (s := s.withRequests p b) configured key]; rfl
    · rw [exec_stop_noKey configured key, exec_stop_noKey (s := s.withRequests p b) configured key]; rfl

theorem withRequests_form2_dst (f : Form2) : f.dst (s.withRequests p b) = f.dst s := by cases f <;> rfl
theorem withRequests_form2_src (f : Form2) : f.src (s.withRequests p b) = f.src s := by cases f <;> rfl
theorem withRequests_form1_loc (f : Form1) : f.loc (s.withRequests p b) = f.loc s := by cases f <;> rfl
theorem withRequests_ld_dst (f : LdForm) : f.dst (s.withRequests p b) = f.dst s := by cases f <;> rfl
theorem withRequests_ld_src (f : LdForm) : f.src (s.withRequests p b) = f.src s := by cases f <;> rfl
theorem withRequests_mem_addr (f : MemForm) : f.addr (s.withRequests p b) = f.addr s := by cases f <;> rfl

/-- Every instruction does the same whatever the environment's fields are, and leaves them. -/
theorem exec_withRequests (i : Instr) :
    exec i (s.withRequests p b) = onNext (State.withRequests p b) (exec i s) := by
  cases Shape.of i with
  | twoOperand op f =>
    rw [exec_op2, exec_op2, withRequests_form2_dst, withRequests_form2_src, withRequests_op2, finish_map]
  | oneOperand op f =>
    simp only [exec_op1, withRequests_form1_loc, withRequests_op1, ← finish_map, bind_map_except]
  | incWorking n =>
    rw [exec_inc_r, exec_inc_r, withRequests_wr, withRequests_unop, finish_map]
  | ld f =>
    simp only [exec_ld, withRequests_ld_dst, withRequests_ld_src, withRequests_loadReg, ← finish_map,
      bind_map_except]
  | memLoad m d f =>
    simp only [exec_memLoad, withRequests_mem_addr, withRequests_spaceRead, withRequests_wr, withRequests_loadReg,
      ← finish_map, bind_map_except]
  | memStore m f r =>
    simp only [exec_memStore, withRequests_mem_addr, withRequests_wr, withRequests_read, withRequests_spaceWrite,
      ← finish_map, map_bind_except, bind_map_except]
    rfl
  | memStep m up d q => rw [exec_memStep, exec_memStep, withRequests_loadStep, finish_map]
  | callDirect a => rw [exec_call_da, exec_call_da, withRequests_callTo, finish_map]
  | callPair a => rw [exec_call_ipair, exec_call_ipair, withRequests_callThrough, finish_map]
  | iret => rw [exec_iret, exec_iret, withRequests_returnFromInterrupt, finish_map]
  | ret => rw [exec_ret, exec_ret, withRequests_returnFromCall, finish_map]
  | jumpPair a =>
    rw [exec_jp_ipair, exec_jp_ipair, withRequests_jumpTo, finish_map]
    rfl
  | jumpIf cc a => rw [exec_jp_cc_da, exec_jp_cc_da, withRequests_jumpIf]; rfl
  | jumpRelative cc ra => rw [exec_jr_cc_ra, exec_jr_cc_ra, withRequests_jumpIf]; rfl
  | ccf | rcf | scf | di | ei | idle | nop => rfl
  | stop => exact withRequests_stop p b s

end Requests

/-- Settles O60: the two fields go through every shape of instruction untouched and unread. -/
theorem instructionIgnoresRequests : Obligations.InstructionIgnoresRequests := by
  intro i s p b
  refine (exec_withRequests p b s i).trans ?_
  cases exec i s <;> rfl

end Sys2Proof.Machine
end
